-- ==== Sys2Proof/Word.lean ====
section
/-! DEFINITION. The widths the spec gives: 32-bit registers and operands (00_scope R6), 7-bit device register addresses
(00_scope R6), 40-bit datagrams (30_encoding R71). -/

namespace Sys2Proof

/-- A `u32` or `i32`: device registers, descriptor words, host registers (00_scope R8). -/
abbrev Word := BitVec 32

/-- A byte of a datagram. -/
abbrev Byte := BitVec 8

/-- A device register address, `u7` (00_scope R6 `ADDR_WIDTH`). -/
abbrev Addr := BitVec 7

/-- A datagram as the 40-bit frame `F`, `F[39]` first on the wire (30_encoding R71). -/
abbrev Frame := BitVec 40

end Sys2Proof
end

