-- ==== Sys2Proof/Config.lean ====
section
/-! DEFINITION. The implementation parameters of 00_scope R6, as one structure of plain data that every rule takes from the
state (notes/assumptions/1.md), and the free values of the devices' answers, which have no body (notes/assumptions/4.md). -/

namespace Sys2Proof

/-- The seven access classes of a device register (10_state R30). -/
inductive AccessClass where
  | none
  | readOnly
  | writeOnly
  | readWrite
  | readWriteSplit
  | readOnlyClearOnRead
  | writeOnlyHardwarePreset
  deriving DecidableEq, Repr

/-- One entry of `REG_TABLE` (10_state R31). -/
structure RegEntry where
  cls : AccessClass
  /-- The power-on value; `Option.none` is `NotApplicable`. -/
  reset : Option Word
  deriving DecidableEq, Repr

/-- `RampMode` (10_state R33). -/
inductive RampMode where
  | position
  | velocityPositive
  | velocityNegative
  | hold
  deriving DecidableEq, Repr

/-- `OUT_OF_RANGE_POLICY` (43_scaling R181). -/
inductive RangePolicy where
  | pass
  | clamp
  | fail
  deriving DecidableEq, Repr

/-- The `ADDR_<name>` parameters (20_memory R53), each a `u7` (40_framer R113). -/
structure AddrMap where
  gconf : Addr
  shortConf : Addr
  drvConf : Addr
  globalScaler : Addr
  iholdIrun : Addr
  tpowerdown : Addr
  rampmode : Addr
  xactual : Addr
  a1 : Addr
  v1 : Addr
  amax : Addr
  vmax : Addr
  dmax : Addr
  d1 : Addr
  vstop : Addr
  xtarget : Addr
  encConst : Addr
  chopconf : Addr
  pwmconf : Addr
  deriving DecidableEq, Repr

/-- `RAMPMODE_CODE`: the word written to the ramp-mode register for each mode (10_state R33). -/
structure RampCodes where
  position : Word
  velocityPositive : Word
  velocityNegative : Word
  hold : Word
  deriving DecidableEq, Repr

/-- The implementation parameters (00_scope R6). An address that `regTable` does not list has class `None`
(10_state R31, 20_memory R52). -/
structure Params where
  maxChannels : Nat
  numCS : Nat
  checkAccess : Bool
  policy : RangePolicy
  maxVelocity : Nat
  maxAcceleration : Nat
  maxPosition : Nat
  regTable : List (Addr × RegEntry)
  addr : AddrMap
  rampCode : RampCodes
  deriving DecidableEq, Repr

/-- The default addresses of 20_memory R53 [general knowledge of the spec, 93 G3]. -/
def AddrMap.default : AddrMap :=
  { gconf := 0x00, shortConf := 0x09, drvConf := 0x0A, globalScaler := 0x0B, iholdIrun := 0x10, tpowerdown := 0x11,
    rampmode := 0x20, xactual := 0x21, a1 := 0x24, v1 := 0x25, amax := 0x26, vmax := 0x27, dmax := 0x28, d1 := 0x2A,
    vstop := 0x2B, xtarget := 0x2D, encConst := 0x3A, chopconf := 0x6C, pwmconf := 0x70 }

/-- The default ramp-mode codes of 10_state R33 [general knowledge of the spec, 93 G5]. -/
def RampCodes.default : RampCodes :=
  { position := 0, velocityPositive := 1, velocityNegative := 2, hold := 3 }

/-- The default classes of 20_memory R53 [93 G4], with reset 0 as 95_test_vectors section 0 takes it. -/
def defaultRegTable : List (Addr × RegEntry) :=
  ([0x00, 0x20, 0x21, 0x2D, 0x6C] : List Addr).map (fun a => (a, ⟨.readWrite, some 0⟩)) ++
  ([0x09, 0x0A, 0x0B, 0x10, 0x11, 0x24, 0x25, 0x26, 0x27, 0x28, 0x2A, 0x2B, 0x3A, 0x70] : List Addr).map
    (fun a => (a, ⟨.writeOnly, some 0⟩))

/-- The test configuration of 95_test_vectors section 0. DESIGN CHOICE, unsafe: `State.reset` takes it, since the interface
fixes one reset state (notes/assumptions/2.md); every rule and every statement is for any `Params`. -/
def Params.testConfig : Params :=
  { maxChannels := 2, numCS := 4, checkAccess := true, policy := .fail, maxVelocity := 200000, maxAcceleration := 1000,
    maxPosition := 51200, regTable := defaultRegTable, addr := AddrMap.default, rampCode := RampCodes.default }

/-- Free value: byte 0 of the device's answer to exchange number `n` (40_framer R104). -/
opaque Config.statusByte (n : Nat) : Byte

/-- Free value: bytes 1..4 of the answer to exchange `n` where the previous request was no read (40_framer R104). -/
opaque Config.stalePayload (n : Nat) : Word

/-- Free value: what the addressed device register holds when the read request of exchange `n` samples it (10_state R39). -/
opaque Config.sample (n : Nat) : Word

/-- Free value: what a device register holds after a write, in exchange `n`, that its class forbids (40_framer R115, R122). -/
opaque Config.forbiddenWrite (n : Nat) : Word

/-- Free value: what `ReadWriteSplit` register `a` of the device on `cs` holds after a write of `v` (20_memory R60, 40_framer R122,
93_implementation_defined U5); the same for a repetition of the write (20_memory R61). -/
opaque Config.splitWrite (cs : Word) (a : Addr) (v : Word) : Word

end Sys2Proof
end

