-- ==== Sys2Proof/Syntax.lean ====
section
/-! DEFINITION. The instructions: one constructor per row of spec/opcode_table.json, with the operands 30_encoding R78 says it
uses, and the two raw encodings they are read from. -/

namespace Sys2Proof

/-- The twelve commands (30_encoding R78) and the two datagram kinds (40_framer R122, R123). `h` is a channel handle, `a` a
device register address, `s` a field shift (30_encoding R77). -/
inductive Instr where
  | init (cs : Word)
  | regWrite (h : Nat) (a : Addr) (v : Word)
  | regRead (h : Nat) (a : Addr)
  | fieldRead (h : Nat) (a : Addr) (s : Nat) (mask : Word)
  | fieldWrite (h : Nat) (a : Addr) (s : Nat) (mask : Word) (v : Word)
  | rotate (h : Nat) (v : Word)
  | moveTo (h : Nat) (pos : Word) (vel : Word)
  | moveBy (h : Nat) (delta : Word) (vel : Word)
  | setDirection (h : Nat) (fwd : Bool)
  | setVelocity (h : Nat) (p : Word)
  | setAcceleration (h : Nat) (p : Word)
  | setPosition (h : Nat) (p : Word)
  | dgWrite (a : Addr) (v : Word)
  | dgRead (a : Addr) (payload : Word)
  deriving DecidableEq, Repr

/-- A command descriptor: control word `W0`, operands `W1` and `W2` (30_encoding R75). -/
structure Descriptor where
  w0 : Word
  w1 : Word
  w2 : Word
  deriving DecidableEq, Repr

/-- What an instruction is written as: a 96-bit descriptor at the host port or a 40-bit frame on the bus (30_encoding R70). -/
inductive Code where
  | descriptor (d : Descriptor)
  | frame (f : Frame)
  deriving DecidableEq, Repr

/-- Why a descriptor is illegal (30_encoding R79, R80). -/
inductive Reject where
  | reservedOpcode
  | reservedBits
  deriving DecidableEq, Repr

/-- The direction of a register access (40_framer R103). -/
inductive AccessDir where
  | read
  | write
  deriving DecidableEq, Repr

end Sys2Proof
end

