-- ==== Sys2Proof/WellFormed.lean ====
section
/-! DEFINITION. Which instructions an encoding can hold (30_encoding R76: `CH` has 8 bits and `SHIFT` 5), and which parameter
sets 00_scope R6, 10_state R31 and 20_memory R53 admit. -/

namespace Sys2Proof

/-- The handle fits the 8-bit `CH` field (30_encoding R76). -/
abbrev handleFits (h : Nat) : Bool := decide (h < 256)

/-- The shift fits the 5-bit `SHIFT` field (30_encoding R76). -/
abbrev shiftFits (s : Nat) : Bool := decide (s < 32)

/-- Every operand fits its field. -/
def Instr.wf : Instr → Bool
  | .init _ => true
  | .regWrite h _ _ => handleFits h
  | .regRead h _ => handleFits h
  | .fieldRead h _ s _ => handleFits h && shiftFits s
  | .fieldWrite h _ s _ _ => handleFits h && shiftFits s
  | .rotate h _ => handleFits h
  | .moveTo h _ _ => handleFits h
  | .moveBy h _ _ => handleFits h
  | .setDirection h _ => handleFits h
  | .setVelocity h _ => handleFits h
  | .setAcceleration h _ => handleFits h
  | .setPosition h _ => handleFits h
  | .dgWrite _ _ => true
  | .dgRead _ _ => true

/-- The instruction is a command, not a datagram (30_encoding R70). -/
def Instr.isCommand : Instr → Bool
  | .dgWrite _ _ => false
  | .dgRead _ _ => false
  | .init _ => true
  | .regWrite _ _ _ => true
  | .regRead _ _ => true
  | .fieldRead _ _ _ _ => true
  | .fieldWrite _ _ _ _ _ => true
  | .rotate _ _ => true
  | .moveTo _ _ _ => true
  | .moveBy _ _ _ => true
  | .setDirection _ _ => true
  | .setVelocity _ _ => true
  | .setAcceleration _ _ => true
  | .setPosition _ _ => true

/-- The seven addresses the commands use (20_memory R53). -/
def AddrMap.used (m : AddrMap) : List Addr :=
  [m.rampmode, m.xactual, m.a1, m.v1, m.amax, m.vmax, m.xtarget]

/-- The parameter ranges of 00_scope R6, the table law of 10_state R31 (class `None` has no reset value; no address twice) and
the distinct addresses of 20_memory R53. -/
def Params.wf (p : Params) : Bool :=
  decide (1 ≤ p.maxChannels) && decide (p.maxChannels ≤ 256) &&
  decide (1 ≤ p.numCS) && decide (p.numCS < 2 ^ 32) &&
  decide (p.maxVelocity < 2 ^ 31) && decide (p.maxAcceleration < 2 ^ 31) && decide (p.maxPosition < 2 ^ 31) &&
  p.regTable.all (fun e => decide (e.2.cls ≠ .none) || decide (e.2.reset = Option.none)) &&
  decide (p.regTable.map (·.1)).Nodup && decide p.addr.used.Nodup

end Sys2Proof
end

