-- ==== Sys2Proof/Decode.lean ====
section
/-! DEFINITION. The two decoders, total on every descriptor (30_encoding R81) and every frame (30_encoding R71), and the
encoder, written from the field layouts of 30_encoding R71-R73, R76 and R82. -/

namespace Sys2Proof

/-! ### Datagrams -/

/-- A write request: `F = 1 ++ a ++ v` (30_encoding R72). -/
def writeFrame (a : Addr) (v : Word) : Frame := 1#1 ++ a ++ v

/-- A read request with payload bits `payload`: `F = 0 ++ a ++ payload` (30_encoding R71). -/
def readFrameWith (a : Addr) (payload : Word) : Frame := 0#1 ++ a ++ payload

/-- The read request the block sends: payload zero (30_encoding R73, 92 D11). -/
def readFrame (a : Addr) : Frame := readFrameWith a 0

/-- `W`, frame bit 39: set for a write request (30_encoding R71). -/
def frameIsWrite (f : Frame) : Bool := f.getLsbD 39

/-- `ADDR`, frame bits 38:32 (30_encoding R71). -/
def frameAddr (f : Frame) : Addr := f.extractLsb' 32 7

/-- `D`, frame bits 31:0, the big-endian payload of bytes 1..4 (20_memory R55, 30_encoding R71, R74). -/
def framePayload (f : Frame) : Word := f.extractLsb' 0 32

/-- Byte `j` of a frame, byte 0 first on the wire: `F[39-8j : 32-8j]` (40_framer R101). -/
def frameByte (f : Frame) (j : Nat) : Byte := f.extractLsb' (32 - 8 * j) 8

/-- The bits of a frame in the order they go on the wire, `F[39]` first (20_memory R56). -/
def frameBits (f : Frame) : List Bool := (List.range 40).map (fun i => f.getLsbD (39 - i))

/-- The frame whose bits arrive in the given order (20_memory R56). -/
def frameOfBits (bs : List Bool) : Frame := bs.foldl (fun f b => (f <<< 1) ||| (BitVec.ofBool b).zeroExtend 40) 0

/-- Bit 7 of byte 0 tells write from read (30_encoding R71); every frame is one of the two. -/
def decodeFrame (f : Frame) : Instr :=
  if frameIsWrite f then .dgWrite (frameAddr f) (framePayload f) else .dgRead (frameAddr f) (framePayload f)

/-! ### Descriptors -/

/-- The reserved bits of `W0` (30_encoding R76). -/
def reservedMask : Word := 0xC08000F0

/-- `OP`, `W0[3:0]`. -/
def opField (w : Word) : BitVec 4 := w.extractLsb' 0 4

/-- `CH`, `W0[15:8]`, as the handle `h` (30_encoding R77). -/
def chField (w : Word) : Nat := (w.extractLsb' 8 8).toNat

/-- `ADDR`, `W0[22:16]`. -/
def addrField (w : Word) : Addr := w.extractLsb' 16 7

/-- `SHIFT`, `W0[28:24]`, a number 0..31 (30_encoding R77). -/
def shiftField (w : Word) : Nat := (w.extractLsb' 24 5).toNat

/-- `FWD`, `W0[29]`. -/
def fwdField (w : Word) : Bool := w.getLsbD 29

/-- The command an opcode selects with its operands (30_encoding R77, R78); none for a reserved opcode (R80). -/
def commandOf (d : Descriptor) : Option Instr :=
  match (opField d.w0).toNat with
  | 0x1 => some (.init d.w1)
  | 0x2 => some (.regWrite (chField d.w0) (addrField d.w0) d.w1)
  | 0x3 => some (.regRead (chField d.w0) (addrField d.w0))
  | 0x4 => some (.fieldRead (chField d.w0) (addrField d.w0) (shiftField d.w0) d.w1)
  | 0x5 => some (.fieldWrite (chField d.w0) (addrField d.w0) (shiftField d.w0) d.w1 d.w2)
  | 0x6 => some (.rotate (chField d.w0) d.w1)
  | 0x7 => some (.moveTo (chField d.w0) d.w1 d.w2)
  | 0x8 => some (.moveBy (chField d.w0) d.w1 d.w2)
  | 0x9 => some (.setDirection (chField d.w0) (fwdField d.w0))
  | 0xA => some (.setVelocity (chField d.w0) d.w1)
  | 0xB => some (.setAcceleration (chField d.w0) d.w1)
  | 0xC => some (.setPosition (chField d.w0) d.w1)
  | _ => none

/-- Decoding a descriptor: the opcode is looked at before the reserved bits (30_encoding R81). -/
def decodeCommand (d : Descriptor) : Except Reject Instr :=
  match commandOf d with
  | none => .error .reservedOpcode
  | some i => if d.w0 &&& reservedMask = 0 then .ok i else .error .reservedBits

/-- The instruction a piece of code is, or why it is none. -/
def decode : Code → Except Reject Instr
  | .descriptor d => decodeCommand d
  | .frame f => .ok (decodeFrame f)

/-! ### Encoder -/

/-- `W0` from its fields, reserved bits zero (30_encoding R76). -/
def controlWord (op : BitVec 4) (h : Nat) (a : Addr) (s : Nat) (fwd : Bool) : Word :=
  0#2 ++ BitVec.ofBool fwd ++ BitVec.ofNat 5 s ++ 0#1 ++ a ++ BitVec.ofNat 8 h ++ 0#4 ++ op

/-- The code of an instruction, every unused field zero (30_encoding R82; datagrams R72, R73). -/
def encode : Instr → Code
  | .init cs => .descriptor ⟨controlWord 0x1 0 0 0 false, cs, 0⟩
  | .regWrite h a v => .descriptor ⟨controlWord 0x2 h a 0 false, v, 0⟩
  | .regRead h a => .descriptor ⟨controlWord 0x3 h a 0 false, 0, 0⟩
  | .fieldRead h a s mask => .descriptor ⟨controlWord 0x4 h a s false, mask, 0⟩
  | .fieldWrite h a s mask v => .descriptor ⟨controlWord 0x5 h a s false, mask, v⟩
  | .rotate h v => .descriptor ⟨controlWord 0x6 h 0 0 false, v, 0⟩
  | .moveTo h pos vel => .descriptor ⟨controlWord 0x7 h 0 0 false, pos, vel⟩
  | .moveBy h delta vel => .descriptor ⟨controlWord 0x8 h 0 0 false, delta, vel⟩
  | .setDirection h fwd => .descriptor ⟨controlWord 0x9 h 0 0 fwd, 0, 0⟩
  | .setVelocity h p => .descriptor ⟨controlWord 0xA h 0 0 false, p, 0⟩
  | .setAcceleration h p => .descriptor ⟨controlWord 0xB h 0 0 false, p, 0⟩
  | .setPosition h p => .descriptor ⟨controlWord 0xC h 0 0 false, p, 0⟩
  | .dgWrite a v => .frame (writeFrame a v)
  | .dgRead a payload => .frame (readFrameWith a payload)

/-! ### Pseudo-commands (30_encoding R86) -/

/-- `right h, v` is `rotate h, v` (42_motion R160). -/
def pseudoRight (h : Nat) (v : Word) : Instr := .rotate h v

/-- `left h, v` is `rotate h, (0 - v) mod 2^32` (42_motion R161). -/
def pseudoLeft (h : Nat) (v : Word) : Instr := .rotate h (0 - v)

/-- `stop h` is `rotate h, 0` (42_motion R162). -/
def pseudoStop (h : Nat) : Instr := .rotate h 0

/-! ### The opcode table's numbering -/

/-- The descriptor whose words, first word lowest, are the bits of `w`. -/
def descriptorOfNat (w : Nat) : Descriptor :=
  ⟨BitVec.ofNat 32 w, BitVec.ofNat 32 (w / 2 ^ 32), BitVec.ofNat 32 (w / 2 ^ 64)⟩

/-- The code whose `nbits` bits, numbered as spec/opcode_table.json numbers them, are `w`: its 40-bit rows are datagrams, its
other rows give the bits of `W0` and may leave out `W1` and `W2`, which are then zero (notes/assumptions/10.md). -/
def codeOfTableWord (nbits w : Nat) : Code :=
  if nbits = 40 then .frame (BitVec.ofNat 40 w) else .descriptor (descriptorOfNat (w % 2 ^ nbits))

/-- The instruction the decoder reads from a table word; none where it refuses. -/
def decodeTableWord (nbits w : Nat) : Option Instr :=
  match decode (codeOfTableWord nbits w) with
  | .ok i => some i
  | .error _ => none

end Sys2Proof
end

