-- ==== Sys2Proof/Machine/State.lean ====
section
/-! DEFINITION. The state of the machine as plain data: host port, sequencer, channel file, bus and its history, devices, the
host's remaining program, and the parameters (10_state R20-R41, 40_framer R101); and the state after reset (10_state R40). -/

namespace Sys2Proof.Machine

/-- `Idle` or `Busy` (10_state R25). -/
inductive Phase where
  | idle
  | busy
  deriving DecidableEq, Repr

/-- The status codes; codes 6 to 15 are never produced (60_exceptions R210). -/
inductive StatusCode where
  | ok
  | initFailure
  | badChannel
  | accessViolation
  | illegalCommand
  | rangeError
  deriving DecidableEq, Repr

/-- The fields of `STATUS`; its other bits are reserved and read 0 (10_state R21). -/
structure Status where
  busy : Bool
  done : Bool
  code : StatusCode
  detail : BitVec 4
  undefAccess : Bool
  deriving DecidableEq, Repr

/-- The stored direction sign, +1 or -1 (10_state R35). -/
inductive Direction where
  | forward
  | reverse
  deriving DecidableEq, Repr

/-- The ramp-mode shadow, a `RampMode` or `Unknown` (10_state R28, R34). -/
inductive RampShadow where
  | unknown
  | mode (m : RampMode)
  deriving DecidableEq, Repr

/-- One entry of the channel state file (10_state R28). -/
structure Channel where
  alloc : Bool
  cs : Word
  ramp : RampShadow
  dir : Direction
  vmax : Word
  deriving DecidableEq, Repr

/-- A channel entry after reset (10_state R40). -/
def Channel.reset : Channel :=
  { alloc := false, cs := 0, ramp := .unknown, dir := .forward, vmax := 0 }

/-- The serial bus (40_framer R101): whether a chip-select is asserted, the channel and chip-select of the exchange, the frame
sent, and the frame last received. -/
structure Bus where
  select : Bool
  h : Nat
  cs : Word
  tx : Frame
  rx : Frame
  deriving DecidableEq, Repr

/-- An event of the bus history: channel, frame sent, frame received (40_framer R101). -/
structure BusEvent where
  h : Nat
  tx : Frame
  rx : Frame
  deriving DecidableEq, Repr

/-- An access of the host to the word-indexed host port (10_state R24). -/
inductive HostAccess where
  | write (idx : Nat) (v : Word)
  | read (idx : Nat)
  deriving DecidableEq, Repr

/-- How the devices answer: by the free draw of 40_framer R104, or as the reference device of 60_exceptions R230. -/
inductive Oracle where
  | free
  | reference
  deriving DecidableEq, Repr

/-- Sparse 32-bit cells, keys rising; the cell is a whole register, the unit of the device space (20_memory R51). -/
abbrev Memory := List (Nat × Word)

/-- The machine. -/
structure State where
  /-- The implementation parameters, `REG_TABLE` among them (00_scope R6, 10_state R41); no step changes them. -/
  params : Params
  /-- Whose law the devices' answers follow; no step changes it. -/
  oracle : Oracle
  /-- The host's write registers (10_state R20). -/
  cmd0 : Word
  cmd1 : Word
  cmd2 : Word
  /-- 10_state R21. -/
  status : Status
  /-- 10_state R22. -/
  result : Word
  /-- 10_state R23. -/
  allocCount : Word
  /-- The sequencer (10_state R25, R27): phase, latched descriptor, exchanges performed. -/
  phase : Phase
  cmd : Descriptor
  k : Nat
  /-- The scratch registers `RDATA` and `TGT` (10_state R26). -/
  rdata : Word
  tgt : Word
  /-- The channel state file (10_state R28). -/
  chans : List Channel
  /-- The exchange on the bus (40_framer R101). -/
  bus : Bus
  /-- The bus history, oldest event first (40_framer R101). -/
  history : List BusEvent
  /-- The status of each command, in order, at its completion (70_reset_and_hazards R256). -/
  statusLog : List Status
  /-- The device registers: key `128 * cs + a`; what the last write or sample left in them (10_state R39,
  notes/assumptions/5.md and 12.md). -/
  regs : Memory
  /-- The read latch `pend` of each device, key `cs`; not listed where it holds no read's sample (10_state R38). -/
  pends : Memory
  /-- The counter the free values of Config are drawn at; the model's own (notes/assumptions/4.md). -/
  draws : Nat
  /-- The accesses the host has yet to make, in order (10_state R27, 70_reset_and_hazards R256). -/
  host : List HostAccess
  /-- Index and value of each read the host has made, in order. -/
  hostLog : List (Nat × Word)
  deriving DecidableEq, Repr

/-- Why a step can stop. Nothing of this hardware stops: a command that fails completes with a status code, and no trap exists
(60_exceptions R211, R221), so no reason is declared. -/
inductive Fault
  deriving DecidableEq, Repr

/-- Why an instruction has no meaning. -/
inductive Refusal where
  /-- Raised by an arm of `exec` whose instruction is not modelled; no arm does. Safe. -/
  | notModelled (mnemonic : String)
  deriving DecidableEq, Repr

/-- The block after reset, for any parameters (10_state R40, 70_reset_and_hazards R240, R241). The model's own fields (bus,
history, logs, draws, host) start empty (notes/assumptions/3.md). -/
def State.resetWith (p : Params) : State :=
  { params := p
    oracle := .free
    cmd0 := 0, cmd1 := 0, cmd2 := 0
    status := { busy := false, done := false, code := .ok, detail := 0, undefAccess := false }
    result := 0
    allocCount := 0
    phase := .idle
    cmd := ⟨0, 0, 0⟩
    k := 0
    rdata := 0
    tgt := 0
    chans := List.replicate p.maxChannels Channel.reset
    bus := { select := false, h := 0, cs := 0, tx := 0, rx := 0 }
    history := []
    statusLog := []
    regs := []
    pends := []
    draws := 0
    host := []
    hostLog := [] }

/-- The machine after reset. DESIGN CHOICE, unsafe: its parameters are those of 95_test_vectors section 0
(notes/assumptions/2.md). -/
def State.reset : State := State.resetWith Params.testConfig

end Sys2Proof.Machine
end

