-- ==== Sys2Proof/Machine/Flags.lean ====
section
/-! DEFINITION. The `STATUS` register: its code numbers, its 32-bit view, and the values it takes at submission, completion and
failure (10_state R20, R21, 60_exceptions R210-R212). -/

namespace Sys2Proof.Machine

/-- The number of a status code (60_exceptions R210). -/
def statusCodeBits : StatusCode → BitVec 4
  | .ok => 0
  | .initFailure => 1
  | .badChannel => 2
  | .accessViolation => 3
  | .illegalCommand => 4
  | .rangeError => 5

/-- `STATUS` as the host reads it: bits 0, 1, 7:4, 11:8 and 16, reserved bits 0 (10_state R21). -/
def statusWord (st : Status) : Word :=
  0#15 ++ BitVec.ofBool st.undefAccess ++ 0#4 ++ st.detail ++ statusCodeBits st.code ++ 0#2 ++ BitVec.ofBool st.done ++
    BitVec.ofBool st.busy

/-- `STATUS` at submission (10_state R20). -/
def submittedStatus (st : Status) : Status :=
  { st with busy := true, done := false, code := .ok, detail := 0 }

/-- `STATUS` at completion with a code and a detail (60_exceptions R211, R212); `UNDEF_ACCESS` keeps its value. -/
def completedStatus (code : StatusCode) (detail : BitVec 4) (st : Status) : Status :=
  { st with busy := false, done := true, code := code, detail := detail }

/-- The code and detail pairs a completion can leave (60_exceptions R210). -/
def legalOutcome (code : StatusCode) (detail : BitVec 4) : Bool :=
  match code with
  | .ok => detail == 0
  | .initFailure => detail == 1 || detail == 2
  | .badChannel => detail == 1
  | .accessViolation => detail == 1 || detail == 2
  | .illegalCommand => detail == 1 || detail == 2
  | .rangeError => detail == 1 || detail == 2

end Sys2Proof.Machine
end

