-- ==== Sys2Proof/Machine/Operands.lean ====
section
/-! DEFINITION. Operand computations that read no mutable state: the register table and its permissions, the access list of a
command, field extract and insert, the magnitude of a velocity, and scaling. -/

namespace Sys2Proof.Machine

/-! ### The register table (10_state R30-R32) -/

/-- The class code of 10_state R30 (93 G2). -/
def accessClassCode : AccessClass → Byte
  | .none => 0x00
  | .readOnly => 0x01
  | .writeOnly => 0x02
  | .readWrite => 0x03
  | .readWriteSplit => 0x13
  | .readOnlyClearOnRead => 0x21
  | .writeOnlyHardwarePreset => 0x42

/-- `REG_TABLE[a]`; an address the table does not list is `None`, `NotApplicable` (10_state R31). -/
def regEntry (p : Params) (a : Addr) : RegEntry := (p.regTable.lookup a).getD ⟨.none, Option.none⟩

/-- `permission(a)` (10_state R31). -/
def accessClass (p : Params) (a : Addr) : AccessClass := (regEntry p a).cls

/-- `resetValue(a)`; none is `NotApplicable` (10_state R31). -/
def powerOn (p : Params) (a : Addr) : Option Word := (regEntry p a).reset

/-- The permission matrix of 40_framer R103. -/
def permits : AccessClass → AccessDir → Bool
  | .none, .read => false
  | .none, .write => false
  | .readOnly, .read => true
  | .readOnly, .write => false
  | .writeOnly, .read => false
  | .writeOnly, .write => true
  | .readWrite, .read => true
  | .readWrite, .write => true
  | .readWriteSplit, .read => true
  | .readWriteSplit, .write => true
  | .readOnlyClearOnRead, .read => true
  | .readOnlyClearOnRead, .write => false
  | .writeOnlyHardwarePreset, .read => false
  | .writeOnlyHardwarePreset, .write => true

/-- `CheckAccess(a, dir)` (40_framer R103). -/
def checkAccess (p : Params) (a : Addr) (dir : AccessDir) : Bool := permits (accessClass p a) dir

/-- The accesses of `MoveToBody` (42_motion R154). -/
def moveAccesses (p : Params) : List (Addr × AccessDir) :=
  [(p.addr.rampmode, .write), (p.addr.vmax, .write), (p.addr.xtarget, .write)]

/-- The access list of a command, in command order (40_framer R116). -/
def accessList (p : Params) : Instr → List (Addr × AccessDir)
  | .init _ => []
  | .regWrite _ a _ => [(a, .write)]
  | .regRead _ a => [(a, .read)]
  | .fieldRead _ a _ _ => [(a, .read)]
  | .fieldWrite _ a _ _ _ => [(a, .read), (a, .write)]
  | .rotate _ _ => [(p.addr.vmax, .write), (p.addr.rampmode, .write)]
  | .moveTo _ _ _ => moveAccesses p
  | .moveBy _ _ _ => (p.addr.xactual, .read) :: moveAccesses p
  | .setDirection _ _ => [(p.addr.vmax, .write), (p.addr.rampmode, .write)]
  | .setVelocity _ _ => [(p.addr.vmax, .write), (p.addr.v1, .write)]
  | .setAcceleration _ _ => [(p.addr.amax, .write), (p.addr.a1, .write)]
  | .setPosition _ _ => moveAccesses p
  | .dgWrite _ _ => []
  | .dgRead _ _ => []

/-- The channel handle a command checks; `INIT` checks none (44_channel R201). -/
def handleOf : Instr → Option Nat
  | .init _ => none
  | .regWrite h _ _ => some h
  | .regRead h _ => some h
  | .fieldRead h _ _ _ => some h
  | .fieldWrite h _ _ _ _ => some h
  | .rotate h _ => some h
  | .moveTo h _ _ => some h
  | .moveBy h _ _ => some h
  | .setDirection h _ => some h
  | .setVelocity h _ => some h
  | .setAcceleration h _ => some h
  | .setPosition h _ => some h
  | .dgWrite _ _ => none
  | .dgRead _ _ => none

/-- The scaling input of a command, where it has one (43_scaling R181). -/
def scalingInput : Instr → Option Word
  | .setVelocity _ p => some p
  | .setAcceleration _ p => some p
  | .setPosition _ p => some p
  | .init _ => none
  | .regWrite _ _ _ => none
  | .regRead _ _ => none
  | .fieldRead _ _ _ _ => none
  | .fieldWrite _ _ _ _ _ => none
  | .rotate _ _ => none
  | .moveTo _ _ _ => none
  | .moveBy _ _ _ => none
  | .setDirection _ _ => none
  | .dgWrite _ _ => none
  | .dgRead _ _ => none

/-- How many exchanges a command performs when it completes `OK` (70_reset_and_hazards R254); a datagram is one exchange. -/
def exchangeCount : Instr → Nat
  | .init _ => 0
  | .regWrite _ _ _ => 1
  | .regRead _ _ => 2
  | .fieldRead _ _ _ _ => 2
  | .fieldWrite _ _ _ _ _ => 3
  | .rotate _ _ => 2
  | .moveTo _ _ _ => 3
  | .moveBy _ _ _ => 5
  | .setDirection _ _ => 2
  | .setVelocity _ _ => 2
  | .setAcceleration _ _ => 2
  | .setPosition _ _ => 3
  | .dgWrite _ _ => 1
  | .dgRead _ _ => 1

/-! ### Fields (41_field R130, R131) -/

/-- `fieldGet` (41_field R130): a logical right shift, then the mask. -/
def fieldGet (r mask : Word) (s : Nat) : Word := (r >>> s) &&& mask

/-- `fieldSet` (41_field R131): bits above bit 31 are discarded. -/
def fieldSet (old mask : Word) (s : Nat) (value : Word) : Word :=
  (old &&& ~~~(mask <<< s)) ||| ((value &&& mask) <<< s)

/-! ### Motion (42_motion R151, R152, R156) -/

/-- `RAMPMODE_CODE(m)` (10_state R33). -/
def rampModeCode (p : Params) : RampMode → Word
  | .position => p.rampCode.position
  | .velocityPositive => p.rampCode.velocityPositive
  | .velocityNegative => p.rampCode.velocityNegative
  | .hold => p.rampCode.hold

/-- `|v|` with 32-bit wrap: the negative of `-2^31` is itself (42_motion R152, R153). -/
def speedOf (v : Word) : Word := if v.toInt < 0 then 0 - v else v

/-- The velocity mode of a signed velocity; zero is positive (42_motion R152). -/
def modeOfVelocity (v : Word) : RampMode := if v.toInt < 0 then .velocityNegative else .velocityPositive

/-- The velocity mode of a direction (42_motion R156). -/
def modeOfDirection (fwd : Bool) : RampMode := if fwd then .velocityPositive else .velocityNegative

/-- The direction sign `SET_DIRECTION` stores (42_motion R156). -/
def directionOf (fwd : Bool) : Direction := if fwd then .forward else .reverse

/-- `dir * q mod 2^32` (43_scaling R184). -/
def signed (dir : Direction) (q : Word) : Word :=
  match dir with
  | .forward => q
  | .reverse => 0 - q

/-! ### Scaling (43_scaling R180, R181) -/

/-- `round(n / 100)`, halves away from zero, on exact integers (43_scaling R180). -/
def roundHundredth (n : Int) : Int := n.sign * (((n.natAbs + 50) / 100 : Nat) : Int)

/-- `scale(p, MAX)` (43_scaling R180). -/
def scale (p : Int) (max : Nat) : Word := BitVec.ofInt 32 (roundHundredth (p * (max : Int)))

/-- The input is in 0..100 (43_scaling R181). -/
def inRange (p : Int) : Bool := decide (0 ≤ p) && decide (p ≤ 100)

/-- `policyInput(p)` where it does not raise (43_scaling R181): `FAIL` raises on every input out of range in the pre-check. -/
def policyInput (policy : RangePolicy) (p : Int) : Int :=
  match policy with
  | .pass => p
  | .clamp => if p < 0 then 0 else if 100 < p then 100 else p
  | .fail => p

/-- A quarter, rounded down, on `i32` (43_scaling R182). -/
def quarter (s : Word) : Word := s.sshiftRight 2

/-- Twice, modulo `2^32` (43_scaling R183). -/
def twice (acc : Word) : Word := 2 * acc

end Sys2Proof.Machine
end

