-- ==== Sys2Proof/Machine/Ops.lean ====
section
/-! DEFINITION. The named operations on the state: sparse memory, channel file, device, exchange, register write and read,
completion and failure, and the pre-check. A failure (`raise`) is this hardware's one form of exception: it completes the
command with a code and changes nothing else (60_exceptions R211, R221). -/

namespace Sys2Proof.Machine

/-! ### Sparse memory -/

/-- The listed value at a key. -/
def memLookup : Memory → Nat → Option Word
  | [], _ => none
  | (k, v) :: m, key => if key = k then some v else memLookup m key

/-- The value at a key: the listed one, else what an unlisted key reads as. -/
def memRead (dflt : Nat → Option Word) (m : Memory) (key : Nat) : Option Word :=
  match memLookup m key with
  | some v => some v
  | none => dflt key

/-- List a value at its place in the rising order. -/
def memInsert : Memory → Nat → Word → Memory
  | [], key, v => [(key, v)]
  | (k, w) :: m, key, v =>
    if key < k then (key, v) :: (k, w) :: m else if key = k then (key, v) :: m else (k, w) :: memInsert m key v

/-- Unlist a key. -/
def memErase (m : Memory) (key : Nat) : Memory := m.filter (fun e => e.1 != key)

/-- Write a value: a value the unlisted key reads as is not listed. -/
def memWrite (dflt : Nat → Option Word) (m : Memory) (key : Nat) (v : Word) : Memory :=
  if dflt key = some v then memErase m key else memInsert m key v

/-- Keys strictly rising from a bound on. -/
def memSorted : Option Nat → Memory → Bool
  | _, [] => true
  | none, (k, _) :: m => memSorted (some k) m
  | some b, (k, _) :: m => decide (b < k) && memSorted (some k) m

/-- The canonical form: keys strictly rising, nothing listed that an unlisted key reads as. -/
def Memory.wf (dflt : Nat → Option Word) (m : Memory) : Bool :=
  memSorted none m && m.all (fun e => dflt e.1 != some e.2)

/-- The key of register `a` of the device on chip-select `cs`. -/
def regKey (cs : Word) (a : Addr) : Nat := 128 * cs.toNat + a.toNat

/-- What an unlisted device register reads as: its power-on value, unspecified where `NotApplicable` (10_state R40). -/
def regDefault (p : Params) (key : Nat) : Option Word := powerOn p (BitVec.ofNat 7 key)

/-- What an unlisted read latch holds: no read's sample (10_state R38). -/
def pendDefault (_ : Nat) : Option Word := none

/-- What register `a` of the device on `cs` was left at by the last write or sample; none where unspecified. -/
def deviceReg (s : State) (cs : Word) (a : Addr) : Option Word := memRead (regDefault s.params) s.regs (regKey cs a)

/-- The device's read latch; none where it holds no read's sample (10_state R38). -/
def devicePend (s : State) (cs : Word) : Option Word := memRead pendDefault s.pends cs.toNat

/-- The device register takes a value. -/
def setDeviceReg (cs : Word) (a : Addr) (v : Word) (s : State) : State :=
  { s with regs := memWrite (regDefault s.params) s.regs (regKey cs a) v }

/-- The read latch takes a sample. -/
def setDevicePend (cs : Word) (v : Word) (s : State) : State :=
  { s with pends := memWrite pendDefault s.pends cs.toNat v }

/-- The read latch holds no read's sample any more. -/
def clearDevicePend (cs : Word) (s : State) : State := { s with pends := memErase s.pends cs.toNat }

/-! ### Channel state file (10_state R28) -/

/-- `chan[h]`. -/
def chanOf (s : State) (h : Nat) : Channel := (s.chans[h]?).getD Channel.reset

/-- `chan[h] <- c`. -/
def setChan (h : Nat) (c : Channel) (s : State) : State := { s with chans := s.chans.set h c }

/-- `chan[h].ramp <- m` (42_motion R151). -/
def setRamp (h : Nat) (m : RampMode) (s : State) : State := setChan h { chanOf s h with ramp := .mode m } s

/-- `chan[h].dir <- d` (42_motion R156). -/
def setDir (h : Nat) (d : Direction) (s : State) : State := setChan h { chanOf s h with dir := d } s

/-- `chan[h].vmax <- v` (43_scaling R182). -/
def setVmax (h : Nat) (v : Word) (s : State) : State := setChan h { chanOf s h with vmax := v } s

/-! ### Completion and failure (60_exceptions R211, R212) -/

/-- `finish()` with the status it leaves: `BUSY <- 0`, `DONE <- 1`, `phase <- Idle`; the status joins the log
(70_reset_and_hazards R256). -/
def finish (code : StatusCode) (detail : BitVec 4) (s : State) : State :=
  { s with
    status := completedStatus code detail s.status
    phase := .idle
    statusLog := s.statusLog ++ [completedStatus code detail s.status] }

/-- `complete(r)` (60_exceptions R212). -/
def complete (r : Word) (s : State) : State := finish .ok 0 { s with result := r }

/-- `raise E(d)`: `RESULT <- 0`, the code and detail, and nothing else but `finish()` (60_exceptions R211). -/
def raise (code : StatusCode) (detail : BitVec 4) (s : State) : State := finish code detail { s with result := 0 }

/-- The failure of a descriptor that does not decode (60_exceptions R214). -/
def raiseIllegal (r : Reject) (s : State) : State :=
  match r with
  | .reservedOpcode => raise .illegalCommand 1 s
  | .reservedBits => raise .illegalCommand 2 s

/-! ### The device's side of an exchange (40_framer R104, R122, R123, 60_exceptions R230) -/

/-- Byte 0 of an answer: a free value, or the reference device's zero. -/
def answerStatus (s : State) : Byte :=
  match s.oracle with
  | .free => Config.statusByte s.draws
  | .reference => 0

/-- Bytes 1..4 of an answer: the latched sample of the previous request; where there is none a free value
(40_framer R104), or the reference device's initial latch, zero (60_exceptions R231). -/
def answerPayload (s : State) (cs : Word) : Word :=
  match devicePend s cs with
  | some v => v
  | none =>
    match s.oracle with
    | .free => Config.stalePayload s.draws
    | .reference => 0

/-- The frame the device on `cs` answers with (30_encoding R74). -/
def answerFrame (s : State) (cs : Word) : Frame := answerStatus s ++ answerPayload s cs

/-- What a write of `v` in exchange `n` leaves in register `a` of the free device on `cs`, by its class `c` (40_framer R122): `v`;
a free value of the register and `v` where the write has a meaning of its own (20_memory R60, R61); a free value of the exchange
where the class permits no write (40_framer R115). -/
def freeWrite (c : AccessClass) (cs : Word) (a : Addr) (n : Nat) (v : Word) : Word :=
  match c with
  | .none => Config.forbiddenWrite n
  | .readOnly => Config.forbiddenWrite n
  | .writeOnly => v
  | .readWrite => v
  | .readWriteSplit => Config.splitWrite cs a v
  | .readOnlyClearOnRead => Config.forbiddenWrite n
  | .writeOnlyHardwarePreset => v

/-- What a device register holds after a write of `v`; the reference device applies every write (60_exceptions R230). -/
def writtenValue (s : State) (cs : Word) (a : Addr) (v : Word) : Word :=
  match s.oracle with
  | .free => freeWrite (accessClass s.params a) cs a s.draws v
  | .reference => v

/-- What a read request samples (40_framer R123): a free value, since the device may have changed the register
(10_state R39); the reference device never moves its registers, and starts unspecified ones at 0 (60_exceptions R230, R231). -/
def sampledValue (s : State) (cs : Word) (a : Addr) : Word :=
  match s.oracle with
  | .free => Config.sample s.draws
  | .reference => (deviceReg s cs a).getD 0

/-- `DG.WRITE` at the device on `cs`: the register is written, and the latch holds no sample; the reference device latches the
written value (40_framer R104, R122, 60_exceptions R230). -/
def deviceWrite (cs : Word) (a : Addr) (v : Word) (s : State) : State :=
  match s.oracle with
  | .free => clearDevicePend cs (setDeviceReg cs a (writtenValue s cs a v) s)
  | .reference => setDevicePend cs v (setDeviceReg cs a (writtenValue s cs a v) s)

/-- What a sample leaves in the register: 0 in a `ReadOnlyClearOnRead` register, else the sampled value (20_memory R59). -/
def afterSample (p : Params) (a : Addr) (v : Word) : Word :=
  match accessClass p a with
  | .readOnlyClearOnRead => 0
  | .none => v
  | .readOnly => v
  | .writeOnly => v
  | .readWrite => v
  | .readWriteSplit => v
  | .writeOnlyHardwarePreset => v

/-- `DG.READ` at the device on `cs`: the register is sampled into the latch (40_framer R123). -/
def deviceRead (cs : Word) (a : Addr) (s : State) : State :=
  setDevicePend cs (sampledValue s cs a) (setDeviceReg cs a (afterSample s.params a (sampledValue s cs a)) s)

/-- The device acts on a request frame. -/
def deviceAct (cs : Word) (tx : Frame) (s : State) : State :=
  if frameIsWrite tx then deviceWrite cs (frameAddr tx) (framePayload tx) s else deviceRead cs (frameAddr tx) s

/-! ### Exchange (40_framer R101) -/

/-- Chip-select `chan[h].cs` is asserted and `tx` goes on the wire. -/
def assertSelect (h : Nat) (tx : Frame) (s : State) : State :=
  { s with bus := { s.bus with select := true, h := h, cs := (chanOf s h).cs, tx := tx } }

/-- Chip-select is de-asserted, the event `(h, tx, rx)` is recorded, `k <- k + 1`; the next draw is a fresh one. -/
def endExchange (tx rx : Frame) (s : State) : State :=
  { s with
    bus := { s.bus with select := false, tx := tx, rx := rx }
    history := s.history ++ [⟨s.bus.h, tx, rx⟩]
    k := s.k + 1
    draws := s.draws + 1 }

/-- The addressed device answers `tx` and acts on it, and the exchange ends. -/
def answer (tx : Frame) (s : State) : State :=
  endExchange tx (answerFrame s s.bus.cs) (deviceAct s.bus.cs tx s)

/-- `Exchange(h, tx)`; the response is left in `bus.rx` (40_framer R101). -/
def exchange (h : Nat) (tx : Frame) (s : State) : State := answer tx (assertSelect h tx s)

/-! ### Register write and read (40_framer R110, R111, R115) -/

/-- `UNDEF_ACCESS <- 1` where the access is not permitted (40_framer R115). -/
def flagAccess (a : Addr) (dir : AccessDir) (s : State) : State :=
  if checkAccess s.params a dir then s else { s with status := { s.status with undefAccess := true } }

/-- `WriteReg(h, a, v)` (40_framer R110). -/
def writeReg (h : Nat) (a : Addr) (v : Word) (s : State) : State := exchange h (writeFrame a v) (flagAccess a .write s)

/-- `RDATA` takes bytes 1..4 of the last response (40_framer R111). -/
def latchRead (s : State) : State := { s with rdata := framePayload s.bus.rx }

/-- `ReadReg(h, a)`, its value left in `RDATA` (40_framer R111): two identical read datagrams, the first response discarded. -/
def readReg (h : Nat) (a : Addr) (s : State) : State :=
  latchRead (exchange h (readFrame a) (exchange h (readFrame a) (flagAccess a .read s)))

/-- `SetRampMode(h, m)` (42_motion R151). -/
def setRampMode (h : Nat) (m : RampMode) (s : State) : State :=
  setRamp h m (writeReg h s.params.addr.rampmode (rampModeCode s.params m) s)

/-- `MoveToBody(h, pos, vel)` (42_motion R154). -/
def moveToBody (h : Nat) (pos vel : Word) (s : State) : State :=
  writeReg h s.params.addr.xtarget pos (writeReg h s.params.addr.vmax vel (setRampMode h .position s))

/-! ### Pre-check (60_exceptions R213) -/

/-- Check 3: the handle is allocated (44_channel R201). -/
def channelFailure (i : Instr) (s : State) : Option (StatusCode × BitVec 4) :=
  match handleOf i with
  | none => none
  | some h => if s.allocCount.toNat ≤ h then some (.badChannel, 1) else none

/-- Check 4: under `FAIL`, the scaling input is in 0..100 (43_scaling R181). -/
def rangeFailure (i : Instr) (s : State) : Option (StatusCode × BitVec 4) :=
  match scalingInput i with
  | none => none
  | some p =>
    match s.params.policy with
    | .pass => none
    | .clamp => none
    | .fail => if p.toInt < 0 then some (.rangeError, 1) else if 100 < p.toInt then some (.rangeError, 2) else none

/-- The detail of an access violation: 1 for a read, 2 for a write (60_exceptions R216). -/
def accessDetail : AccessDir → BitVec 4
  | .read => 1
  | .write => 2

/-- The first pair of an access list that the table forbids (40_framer R116). -/
def firstForbidden (p : Params) (acc : List (Addr × AccessDir)) : Option (Addr × AccessDir) :=
  acc.find? (fun e => !checkAccess p e.1 e.2)

/-- Check 5: with `CHECK_ACCESS`, every pair of the access list is permitted (40_framer R116). -/
def accessFailure (i : Instr) (s : State) : Option (StatusCode × BitVec 4) :=
  if s.params.checkAccess then
    match firstForbidden s.params (accessList s.params i) with
    | none => none
    | some e => some (.accessViolation, accessDetail e.2)
  else none

/-- Checks 2 to 5 of `precheck`, the first failure winning (60_exceptions R213); check 1 is decoding. -/
def precheck (i : Instr) (s : State) : Option (StatusCode × BitVec 4) :=
  match channelFailure i s with
  | some f => some f
  | none =>
    match rangeFailure i s with
    | some f => some f
    | none => accessFailure i s

/-- A command: its pre-check, then its body (60_exceptions R211, R213). -/
def guarded (i : Instr) (body : State → State) (s : State) : Host.Outcome State Fault Refusal :=
  match precheck i s with
  | some f => .next (raise f.1 f.2 s)
  | none => .next (body s)

end Sys2Proof.Machine
end

