-- ==== Sys2Proof/Machine/Field.lean ====
section
/-! DEFINITION. Bit-field commands (41_field R132, R133). -/

namespace Sys2Proof.Machine

/-- FIELD_READ after its pre-check (41_field R132). -/
def bodyFieldRead (h : Nat) (a : Addr) (sh : Nat) (mask : Word) (s : State) : State :=
  let r := readReg h a s
  complete (fieldGet r.rdata mask sh) r

/-- FIELD_READ (41_field R132). -/
def execFieldRead (h : Nat) (a : Addr) (sh : Nat) (mask : Word) (s : State) : Host.Outcome State Fault Refusal :=
  guarded (.fieldRead h a sh mask) (bodyFieldRead h a sh mask) s

/-- FIELD_WRITE after its pre-check (41_field R133): a read, the merge, and a write, each exchange an event of its own
(41_field R136). -/
def bodyFieldWrite (h : Nat) (a : Addr) (sh : Nat) (mask v : Word) (s : State) : State :=
  let r := readReg h a s
  complete 0 (writeReg h a (fieldSet r.rdata mask sh v) r)

/-- FIELD_WRITE (41_field R133). -/
def execFieldWrite (h : Nat) (a : Addr) (sh : Nat) (mask v : Word) (s : State) : Host.Outcome State Fault Refusal :=
  guarded (.fieldWrite h a sh mask v) (bodyFieldWrite h a sh mask v) s

end Sys2Proof.Machine
end

