-- ==== Sys2Proof/Machine/Framer.lean ====
section
/-! DEFINITION. Register commands (40_framer R120, R121) and the datagrams as the device takes them (40_framer R122, R123). -/

namespace Sys2Proof.Machine

/-- REG_WRITE after its pre-check (40_framer R120). -/
def bodyRegWrite (h : Nat) (a : Addr) (v : Word) (s : State) : State := complete 0 (writeReg h a v s)

/-- REG_WRITE (40_framer R120). -/
def execRegWrite (h : Nat) (a : Addr) (v : Word) (s : State) : Host.Outcome State Fault Refusal :=
  guarded (.regWrite h a v) (bodyRegWrite h a v) s

/-- REG_READ after its pre-check (40_framer R121): `RESULT` is the value read. -/
def bodyRegRead (h : Nat) (a : Addr) (s : State) : State :=
  let r := readReg h a s
  complete r.rdata r

/-- REG_READ (40_framer R121). -/
def execRegRead (h : Nat) (a : Addr) (s : State) : Host.Outcome State Fault Refusal :=
  guarded (.regRead h a) (bodyRegRead h a) s

/-- DG.WRITE (40_framer R122): the addressed device takes the frame, and the exchange of 40_framer R101 ends. The channel and
chip-select are those on the bus (notes/assumptions/7.md). DESIGN CHOICE: a datagram sets no `UNDEF_ACCESS`, whatever the class;
the command that sends it does (notes/assumptions/22.md). -/
def execDgWrite (a : Addr) (v : Word) (s : State) : Host.Outcome State Fault Refusal := .next (answer (writeFrame a v) s)

/-- DG.READ (40_framer R123): the addressed device samples the register; it ignores the payload.
DESIGN CHOICE: a datagram sets no `UNDEF_ACCESS`, whatever the class; the command that sends it does (notes/assumptions/22.md). -/
def execDgRead (a : Addr) (payload : Word) (s : State) : Host.Outcome State Fault Refusal :=
  .next (answer (readFrameWith a payload) s)

end Sys2Proof.Machine
end

