-- ==== Sys2Proof/Machine/Channel.lean ====
section
/-! DEFINITION. Channel allocation: INIT (44_channel R200). -/

namespace Sys2Proof.Machine

/-- The entry an `INIT` writes (44_channel R200). -/
def freshChannel (cs : Word) : Channel := { alloc := true, cs := cs, ramp := .unknown, dir := .forward, vmax := 0 }

/-- `INIT` after decoding: the exhausted-table check before the chip-select check (44_channel R200). -/
def initBody (cs : Word) (s : State) : State :=
  if s.allocCount.toNat = s.params.maxChannels then raise .initFailure 1 s
  else if s.params.numCS ≤ cs.toNat then raise .initFailure 2 s
  else complete s.allocCount
    { setChan s.allocCount.toNat (freshChannel cs) s with allocCount := s.allocCount + 1 }

/-- INIT (44_channel R200); of the pre-check only decoding applies to it (60_exceptions R213). -/
def execInit (cs : Word) (s : State) : Host.Outcome State Fault Refusal := .next (initBody cs s)

end Sys2Proof.Machine
end

