-- ==== Sys2Proof/Machine/HostPort.lean ====
section
/-! DEFINITION. The host port: the register map of 10_state R24, submission (10_state R20), and the host's own moves. -/

namespace Sys2Proof.Machine

/-- What a host read of a word gives; it has no side effect (10_state R24). -/
def hostRead (s : State) (idx : Nat) : Word :=
  match idx with
  | 0 => s.cmd0
  | 1 => s.cmd1
  | 2 => s.cmd2
  | 3 => statusWord s.status
  | 4 => s.result
  | 5 => s.allocCount
  | _ => 0

/-- Submission: the descriptor is latched, `BUSY <- 1`, `DONE`, `CODE` and `DETAIL` are cleared, `k <- 0`
(10_state R20, R25, R27). -/
def submit (s : State) : State :=
  { s with
    cmd := ⟨s.cmd0, s.cmd1, s.cmd2⟩
    status := submittedStatus s.status
    phase := .busy
    k := 0 }

/-- What a host write to a word does while `BUSY = 0`; words 3 and above ignore it (10_state R20, R24). -/
def hostWriteIdle (idx : Nat) (v : Word) (s : State) : State :=
  match idx with
  | 0 => submit { s with cmd0 := v }
  | 1 => { s with cmd1 := v }
  | 2 => { s with cmd2 := v }
  | _ => s

/-- A host write; while `BUSY = 1` it has no effect (10_state R20). -/
def hostWrite (idx : Nat) (v : Word) (s : State) : State := if s.status.busy then s else hostWriteIdle idx v s

/-- A host access; the host keeps what it reads. -/
def hostAccess (acc : HostAccess) (s : State) : State :=
  match acc with
  | .write idx v => hostWrite idx v s
  | .read idx => { s with hostLog := s.hostLog ++ [(idx, hostRead s idx)] }

/-- The host makes the next access of its program; with none left the idle block keeps all its state (60_exceptions R229). -/
def hostTurn (s : State) : State :=
  match s.host with
  | [] => s
  | acc :: rest => hostAccess acc { s with host := rest }

/-- The accesses by which a host submits a descriptor: `CMD1`, `CMD2`, then `CMD0` (10_state R20). -/
def submission (d : Descriptor) : List HostAccess := [.write 1 d.w1, .write 2 d.w2, .write 0 d.w0]

/-- The state a submission of `d` leaves, whatever the block was doing before. -/
def submitted (d : Descriptor) (s : State) : State := submit { s with cmd0 := d.w0, cmd1 := d.w1, cmd2 := d.w2 }

end Sys2Proof.Machine
end

