-- ==== Sys2Proof/Machine/Motion.lean ====
section
/-! DEFINITION. Motion commands (42_motion R152-R156). -/

namespace Sys2Proof.Machine

/-- ROTATE after its pre-check (42_motion R152): Vmax, then the ramp mode. -/
def bodyRotate (h : Nat) (v : Word) (s : State) : State :=
  complete 0 (setRampMode h (modeOfVelocity v) (writeReg h s.params.addr.vmax (speedOf v) s))

/-- ROTATE (42_motion R152). -/
def execRotate (h : Nat) (v : Word) (s : State) : Host.Outcome State Fault Refusal :=
  guarded (.rotate h v) (bodyRotate h v) s

/-- MOVE_TO after its pre-check (42_motion R154): the ramp mode, then Vmax, then XTARGET. -/
def bodyMoveTo (h : Nat) (pos vel : Word) (s : State) : State := complete 0 (moveToBody h pos vel s)

/-- MOVE_TO (42_motion R154). -/
def execMoveTo (h : Nat) (pos vel : Word) (s : State) : Host.Outcome State Fault Refusal :=
  guarded (.moveTo h pos vel) (bodyMoveTo h pos vel) s

/-- `TGT <- (x + delta) mod 2^32`, `x` the value just read (42_motion R155). -/
def computeTarget (delta : Word) (s : State) : State := { s with tgt := s.rdata + delta }

/-- MOVE_BY after its pre-check (42_motion R155): the read of XACTUAL, then the writes of MOVE_TO; `RESULT` is the target. -/
def bodyMoveBy (h : Nat) (delta vel : Word) (s : State) : State :=
  let r := computeTarget delta (readReg h s.params.addr.xactual s)
  complete r.tgt (moveToBody h r.tgt vel r)

/-- MOVE_BY (42_motion R155). -/
def execMoveBy (h : Nat) (delta vel : Word) (s : State) : Host.Outcome State Fault Refusal :=
  guarded (.moveBy h delta vel) (bodyMoveBy h delta vel) s

/-- SET_DIRECTION after its pre-check (42_motion R156): Vmax = 0 strictly first, then the ramp mode, then the stored sign. -/
def bodySetDirection (h : Nat) (fwd : Bool) (s : State) : State :=
  complete 0 (setDir h (directionOf fwd) (setRampMode h (modeOfDirection fwd) (writeReg h s.params.addr.vmax 0 s)))

/-- SET_DIRECTION (42_motion R156). -/
def execSetDirection (h : Nat) (fwd : Bool) (s : State) : Host.Outcome State Fault Refusal :=
  guarded (.setDirection h fwd) (bodySetDirection h fwd) s

end Sys2Proof.Machine
end

