-- ==== Sys2Proof/Machine/Scaling.lean ====
section
/-! DEFINITION. Scaling commands (43_scaling R182-R184). -/

namespace Sys2Proof.Machine

/-- `scale(policyInput(p), MAX_VELOCITY)` (43_scaling R182). -/
def scaledVelocity (p : Params) (input : Word) : Word := scale (policyInput p.policy input.toInt) p.maxVelocity

/-- `scale(policyInput(p), MAX_ACCELERATION)` (43_scaling R183). -/
def scaledAcceleration (p : Params) (input : Word) : Word := scale (policyInput p.policy input.toInt) p.maxAcceleration

/-- `scale(policyInput(p), MAX_POSITION)` (43_scaling R184). -/
def scaledPosition (p : Params) (input : Word) : Word := scale (policyInput p.policy input.toInt) p.maxPosition

/-- SET_VELOCITY after its pre-check (43_scaling R182): Vmax, then V1, and the stored Vmax. -/
def bodySetVelocity (h : Nat) (p : Word) (s : State) : State :=
  let v := scaledVelocity s.params p
  complete 0 (setVmax h v (writeReg h s.params.addr.v1 (quarter v) (writeReg h s.params.addr.vmax v s)))

/-- SET_VELOCITY (43_scaling R182). -/
def execSetVelocity (h : Nat) (p : Word) (s : State) : Host.Outcome State Fault Refusal :=
  guarded (.setVelocity h p) (bodySetVelocity h p) s

/-- SET_ACCELERATION after its pre-check (43_scaling R183): Amax, then A1. -/
def bodySetAcceleration (h : Nat) (p : Word) (s : State) : State :=
  let acc := scaledAcceleration s.params p
  complete 0 (writeReg h s.params.addr.a1 (twice acc) (writeReg h s.params.addr.amax acc s))

/-- SET_ACCELERATION (43_scaling R183). -/
def execSetAcceleration (h : Nat) (p : Word) (s : State) : Host.Outcome State Fault Refusal :=
  guarded (.setAcceleration h p) (bodySetAcceleration h p) s

/-- SET_POSITION after its pre-check (43_scaling R184): the writes of MOVE_TO, to the scaled position signed by the stored
direction, at the stored Vmax. -/
def bodySetPosition (h : Nat) (p : Word) (s : State) : State :=
  complete 0 (moveToBody h (signed (chanOf s h).dir (scaledPosition s.params p)) (chanOf s h).vmax s)

/-- SET_POSITION (43_scaling R184). -/
def execSetPosition (h : Nat) (p : Word) (s : State) : Host.Outcome State Fault Refusal :=
  guarded (.setPosition h p) (bodySetPosition h p) s

end Sys2Proof.Machine
end

