-- ==== Sys2Proof/Machine/Sequencer.lean ====
section
/-! DEFINITION. The finer machine of 00_scope R7: each agent with a step of its own. The sequencer's place in a command is
`(phase, k)` (10_state R27); between two exchanges it holds nothing but the state's own registers, so the host may read the
port and a device may change its registers there (20_memory R62, 41_field R136). The meanings of the other files run a command
in one step. -/

namespace Sys2Proof.Machine

/-- Whose move it is: a host access, the sequencer, the addressed device, or a device's own change of a register (10_state R39). -/
inductive Turn where
  | host (acc : HostAccess)
  | sequencer
  | device
  | deviceChange (cs : Word) (a : Addr) (v : Word)
  deriving DecidableEq, Repr

/-- The sequencer starts a write exchange (40_framer R110). -/
def sendWrite (h : Nat) (a : Addr) (v : Word) (s : State) : State :=
  assertSelect h (writeFrame a v) (flagAccess a .write s)

/-- The sequencer starts a read exchange (40_framer R111). -/
def sendRead (h : Nat) (a : Addr) (s : State) : State := assertSelect h (readFrame a) (flagAccess a .read s)

/-- The second of the two identical exchanges of a read; the access was flagged with the first (40_framer R111, R112). -/
def resendRead (h : Nat) (a : Addr) (s : State) : State := assertSelect h (readFrame a) s

/-- `MoveToBody` (42_motion R154) after `n` of its exchanges. -/
def moveToTurn (h : Nat) (pos vel r : Word) (n : Nat) (s : State) : State :=
  match n with
  | 0 => sendWrite h s.params.addr.rampmode (rampModeCode s.params .position) s
  | 1 => sendWrite h s.params.addr.vmax vel (setRamp h .position s)
  | 2 => sendWrite h s.params.addr.xtarget pos s
  | _ => complete r s

/-- What the sequencer does next in a command that has passed its pre-check and performed `n` exchanges. -/
def commandTurn (i : Instr) (n : Nat) (s : State) : State :=
  match i with
  | .init cs => initBody cs s
  | .regWrite h a v =>
    match n with
    | 0 => sendWrite h a v s
    | _ => complete 0 s
  | .regRead h a =>
    match n with
    | 0 => sendRead h a s
    | 1 => resendRead h a s
    | _ => complete (framePayload s.bus.rx) (latchRead s)
  | .fieldRead h a sh mask =>
    match n with
    | 0 => sendRead h a s
    | 1 => resendRead h a s
    | _ => complete (fieldGet (framePayload s.bus.rx) mask sh) (latchRead s)
  | .fieldWrite h a sh mask v =>
    match n with
    | 0 => sendRead h a s
    | 1 => resendRead h a s
    | 2 => sendWrite h a (fieldSet (framePayload s.bus.rx) mask sh v) (latchRead s)
    | _ => complete 0 s
  | .rotate h v =>
    match n with
    | 0 => sendWrite h s.params.addr.vmax (speedOf v) s
    | 1 => sendWrite h s.params.addr.rampmode (rampModeCode s.params (modeOfVelocity v)) s
    | _ => complete 0 (setRamp h (modeOfVelocity v) s)
  | .moveTo h pos vel => moveToTurn h pos vel 0 n s
  | .moveBy h delta vel =>
    match n with
    | 0 => sendRead h s.params.addr.xactual s
    | 1 => resendRead h s.params.addr.xactual s
    | 2 => moveToTurn h 0 vel 0 0 (computeTarget delta (latchRead s))
    | n + 2 => moveToTurn h s.tgt vel s.tgt n s
  | .setDirection h fwd =>
    match n with
    | 0 => sendWrite h s.params.addr.vmax 0 s
    | 1 => sendWrite h s.params.addr.rampmode (rampModeCode s.params (modeOfDirection fwd)) s
    | _ => complete 0 (setDir h (directionOf fwd) (setRamp h (modeOfDirection fwd) s))
  | .setVelocity h p =>
    match n with
    | 0 => sendWrite h s.params.addr.vmax (scaledVelocity s.params p) s
    | 1 => sendWrite h s.params.addr.v1 (quarter (scaledVelocity s.params p)) s
    | _ => complete 0 (setVmax h (scaledVelocity s.params p) s)
  | .setAcceleration h p =>
    match n with
    | 0 => sendWrite h s.params.addr.amax (scaledAcceleration s.params p) s
    | 1 => sendWrite h s.params.addr.a1 (twice (scaledAcceleration s.params p)) s
    | _ => complete 0 s
  | .setPosition h p =>
    moveToTurn h (signed (chanOf s h).dir (scaledPosition s.params p)) (chanOf s h).vmax 0 n s
  | .dgWrite _ _ => s
  | .dgRead _ _ => s

/-- The sequencer's move in a decoded command: the pre-check belongs to the first one (60_exceptions R213). -/
def decodedTurn (i : Instr) (s : State) : State :=
  if s.k = 0 then
    match precheck i s with
    | some f => raise f.1 f.2 s
    | none => commandTurn i 0 s
  else commandTurn i s.k s

/-- The sequencer's move while it is busy and no exchange is in progress. -/
def busyTurn (s : State) : State :=
  match decodeCommand s.cmd with
  | .error r => raiseIllegal r s
  | .ok i => decodedTurn i s

/-- The sequencer's move: none while it is idle or while an exchange is in progress (40_framer R102). -/
def sequencerTurn (s : State) : State :=
  if s.bus.select then s
  else
    match s.phase with
    | .idle => s
    | .busy => busyTurn s

/-- The addressed device's move: it answers the frame on the bus (40_framer R101). -/
def deviceTurn (s : State) : State := if s.bus.select then answer s.bus.tx s else s

/-- A device changes a register by itself (10_state R39); the reference device never does (60_exceptions R230). -/
def deviceChangeTurn (cs : Word) (a : Addr) (v : Word) (s : State) : State :=
  match s.oracle with
  | .free => setDeviceReg cs a v s
  | .reference => s

/-- One move of one agent (00_scope R7). -/
def turn (t : Turn) (s : State) : State :=
  match t with
  | .host acc => hostAccess acc s
  | .sequencer => sequencerTurn s
  | .device => deviceTurn s
  | .deviceChange cs a v => deviceChangeTurn cs a v s

/-- Moves one after another. -/
def turns : List Turn → State → State
  | [], s => s
  | t :: ts, s => turns ts (turn t s)

/-- The moves of a command that performs `n` exchanges, nothing else moving between them. -/
def commandTurns : Nat → List Turn
  | 0 => [.sequencer]
  | n + 1 => .sequencer :: .device :: commandTurns n

end Sys2Proof.Machine
end

