-- ==== Sys2Proof/Machine/Dispatch.lean ====
section
/-! DEFINITION. One arm per constructor of Instr. -/

namespace Sys2Proof.Machine

/-- The meaning of an instruction. -/
def exec (i : Instr) (s : State) : Host.Outcome State Fault Refusal :=
  match i with
  | .init cs => Sys2Proof.Machine.execInit cs s
  | .regWrite h a v => Sys2Proof.Machine.execRegWrite h a v s
  | .regRead h a => Sys2Proof.Machine.execRegRead h a s
  | .fieldRead h a sh mask => Sys2Proof.Machine.execFieldRead h a sh mask s
  | .fieldWrite h a sh mask v => Sys2Proof.Machine.execFieldWrite h a sh mask v s
  | .rotate h v => Sys2Proof.Machine.execRotate h v s
  | .moveTo h pos vel => Sys2Proof.Machine.execMoveTo h pos vel s
  | .moveBy h delta vel => Sys2Proof.Machine.execMoveBy h delta vel s
  | .setDirection h fwd => Sys2Proof.Machine.execSetDirection h fwd s
  | .setVelocity h p => Sys2Proof.Machine.execSetVelocity h p s
  | .setAcceleration h p => Sys2Proof.Machine.execSetAcceleration h p s
  | .setPosition h p => Sys2Proof.Machine.execSetPosition h p s
  | .dgWrite a v => Sys2Proof.Machine.execDgWrite a v s
  | .dgRead a payload => Sys2Proof.Machine.execDgRead a payload s

end Sys2Proof.Machine
end

