-- ==== Sys2Proof/Machine/Step.lean ====
section
/-! DEFINITION. One step of the machine, and how an instruction is put where the next step takes it. -/

namespace Sys2Proof.Machine

/-- One step: while a chip-select is asserted the addressed device takes the frame on the bus; else, while a command is latched
the sequencer runs it (whole, or, in a state that only `turn` reaches, its next part); else the host makes its next access
(00_scope R7, 10_state R20, R25, notes/assumptions/8.md and 9.md). -/
def step (s : State) : Host.Outcome State Fault Refusal :=
  if s.bus.select then exec (decodeFrame s.bus.tx) s
  else
    match s.phase with
    | .idle => .next (hostTurn s)
    | .busy =>
      if s.k = 0 then
        match decodeCommand s.cmd with
        | .error r => .next (raiseIllegal r s)
        | .ok i => exec i s
      else .next (sequencerTurn s)

/-- A frame put on the bus, its chip-select asserted. -/
def State.withFrame (s : State) (f : Frame) : State := { s with bus := { s.bus with select := true, tx := f } }

/-- A descriptor submitted, no exchange in progress. -/
def State.withDescriptor (s : State) (d : Descriptor) : State :=
  submitted d { s with bus := { s.bus with select := false } }

/-- The state whose very next step runs the instruction of a table word: a datagram is put on the bus, a descriptor is submitted
(notes/assumptions/10.md). -/
def State.withFetchWord (s : State) (nbits w : Nat) : State :=
  match codeOfTableWord nbits w with
  | .frame f => s.withFrame f
  | .descriptor d => s.withDescriptor d

end Sys2Proof.Machine
end

