-- ==== Sys2Proof/Machine/Assembler.lean ====
section
/-! DEFINITION. The assembler of 30_encoding R82 and R86, from the characters of a line to an instruction: not part of the
block, but the spec's own account of what a written command means. -/

namespace Sys2Proof.Machine

/-- The register names a register operand may use, each standing for its `ADDR_<name>` (30_encoding R82, 20_memory R53). -/
def registerByName (m : AddrMap) (name : String) : Option Addr :=
  match name with
  | "GCONF" => some m.gconf
  | "SHORT_CONF" => some m.shortConf
  | "DRV_CONF" => some m.drvConf
  | "GLOBAL_SCALER" => some m.globalScaler
  | "IHOLD_IRUN" => some m.iholdIrun
  | "TPOWERDOWN" => some m.tpowerdown
  | "RAMPMODE" => some m.rampmode
  | "XACTUAL" => some m.xactual
  | "A1" => some m.a1
  | "V1" => some m.v1
  | "AMAX" => some m.amax
  | "VMAX" => some m.vmax
  | "DMAX" => some m.dmax
  | "D1" => some m.d1
  | "VSTOP" => some m.vstop
  | "XTARGET" => some m.xtarget
  | "ENC_CONST" => some m.encConst
  | "CHOPCONF" => some m.chopconf
  | "PWMCONF" => some m.pwmconf
  | _ => none

/-- The value of a digit in base 16; letters of either case (30_encoding R82). -/
def digitValue (c : Char) : Option Nat :=
  if '0' ≤ c ∧ c ≤ '9' then some (c.toNat - '0'.toNat)
  else if 'a' ≤ c ∧ c ≤ 'f' then some (c.toNat - 'a'.toNat + 10)
  else if 'A' ≤ c ∧ c ≤ 'F' then some (c.toNat - 'A'.toNat + 10)
  else none

/-- Digits of a base read onto an accumulator; none at a character that is no digit of it. -/
def readDigits (base : Nat) : Nat → List Char → Option Nat
  | acc, [] => some acc
  | acc, c :: cs =>
    match digitValue c with
    | none => none
    | some d => if d < base then readDigits base (acc * base + d) cs else none

/-- A number of one digit at least. -/
def readNat (base : Nat) (cs : List Char) : Option Nat := if cs = [] then none else readDigits base 0 cs

/-- A numeric operand: decimal, optionally negative, or `0x` hexadecimal (30_encoding R82). -/
def readNumber (cs : List Char) : Option Int :=
  match cs with
  | '-' :: ds => (readNat 10 ds).map (fun n => -(n : Int))
  | '0' :: 'x' :: ds => (readNat 16 ds).map (fun n => (n : Int))
  | ds => (readNat 10 ds).map (fun n => (n : Int))

/-- A number in a field of the given width; one that does not fit is an error (30_encoding R82). -/
def readField (bits : Nat) (cs : List Char) : Option Nat :=
  match readNumber cs with
  | none => none
  | some n => if 0 ≤ n ∧ n < 2 ^ bits then some n.toNat else none

/-- A 32-bit operand: a negative number stands for its two's complement (30_encoding R82). -/
def readWord (cs : List Char) : Option Word :=
  match readNumber cs with
  | none => none
  | some n => if -(2 ^ 31) ≤ n ∧ n < 2 ^ 32 then some (BitVec.ofInt 32 n) else none

/-- A register operand: a name or a 7-bit number (30_encoding R82). -/
def readRegister (m : AddrMap) (cs : List Char) : Option Addr :=
  match registerByName m (String.ofList cs) with
  | some a => some a
  | none => (readField 7 cs).map (BitVec.ofNat 7)

/-- `fwd` or `rev` (30_encoding R82). -/
def readDirection (cs : List Char) : Option Bool :=
  match String.ofList cs with
  | "fwd" => some true
  | "rev" => some false
  | _ => none

/-- A comment runs from `;` to the end of the line (30_encoding R82). -/
def stripComment (cs : List Char) : List Char := cs.takeWhile (· ≠ ';')

/-- Blanks off both ends. -/
def trim (cs : List Char) : List Char :=
  ((cs.dropWhile Char.isWhitespace).reverse.dropWhile Char.isWhitespace).reverse

/-- The pieces between commas. -/
def splitCommas : List Char → List (List Char)
  | [] => [[]]
  | c :: cs =>
    if c = ',' then [] :: splitCommas cs
    else
      match splitCommas cs with
      | [] => [[c]]
      | p :: ps => (c :: p) :: ps

/-- The operands of a line after its mnemonic. -/
def readOperands (cs : List Char) : List (List Char) :=
  if trim cs = [] then [] else (splitCommas cs).map trim

/-- A mnemonic with its operands, the pseudo-commands among them (30_encoding R82, R86); none is an assembly error. -/
def assembleCommand (m : AddrMap) (mnemonic : String) (ops : List (List Char)) : Option Instr :=
  match mnemonic, ops with
  | "init", [cs] => do return .init (← readWord cs)
  | "reg_write", [h, a, v] => do return .regWrite (← readField 8 h) (← readRegister m a) (← readWord v)
  | "reg_read", [h, a] => do return .regRead (← readField 8 h) (← readRegister m a)
  | "field_read", [h, a, mask, s] => do
    return .fieldRead (← readField 8 h) (← readRegister m a) (← readField 5 s) (← readWord mask)
  | "field_write", [h, a, mask, s, v] => do
    return .fieldWrite (← readField 8 h) (← readRegister m a) (← readField 5 s) (← readWord mask) (← readWord v)
  | "rotate", [h, v] => do return .rotate (← readField 8 h) (← readWord v)
  | "move_to", [h, pos, v] => do return .moveTo (← readField 8 h) (← readWord pos) (← readWord v)
  | "move_by", [h, delta, v] => do return .moveBy (← readField 8 h) (← readWord delta) (← readWord v)
  | "set_direction", [h, d] => do return .setDirection (← readField 8 h) (← readDirection d)
  | "set_velocity", [h, p] => do return .setVelocity (← readField 8 h) (← readWord p)
  | "set_acceleration", [h, p] => do return .setAcceleration (← readField 8 h) (← readWord p)
  | "set_position", [h, p] => do return .setPosition (← readField 8 h) (← readWord p)
  | "right", [h, v] => do return pseudoRight (← readField 8 h) (← readWord v)
  | "left", [h, v] => do return pseudoLeft (← readField 8 h) (← readWord v)
  | "stop", [h] => do return pseudoStop (← readField 8 h)
  | _, _ => none

/-- One written command (30_encoding R82). -/
def assemble (m : AddrMap) (line : String) : Option Instr :=
  let text := trim (stripComment line.toList)
  assembleCommand m (String.ofList (text.takeWhile (fun c => !c.isWhitespace)))
    (readOperands (text.dropWhile (fun c => !c.isWhitespace)))

end Sys2Proof.Machine
end

