-- ==== Sys2Proof/Safety.lean ====
section
/-! DEFINITION. The terms the statements use: what a command needs to run, what a completed and a failed command leave, what is
observed of a run, and the invariant. -/

namespace Sys2Proof.Machine

/-- A state is not faulted (10_state R37). Every claim about a state takes it as a premise, but for the rules of the fault bit
itself. -/
def State.Good (s : State) : Prop := s.status.undefAccess = false

/-- The end of a run of the host's program (70_reset_and_hazards R256). -/
def State.RunEnded (s : State) : Prop := s.host = [] ∧ s.status.done = true ∧ s.phase = .idle

/-- A good end: a run's end in a state that is not faulted (10_state R37: a faulted state is never a good final state). -/
def State.GoodEnd (s : State) : Prop := s.RunEnded ∧ s.Good

/-- What is observed of a run (70_reset_and_hazards R256). -/
structure Observation where
  history : List BusEvent
  status : Word
  result : Word
  allocCount : Word
  chans : List Channel
  statusLog : List Status
  deriving DecidableEq, Repr

/-- The observation at a state (70_reset_and_hazards R256). -/
def observe (s : State) : Observation :=
  { history := s.history, status := statusWord s.status, result := s.result, allocCount := s.allocCount, chans := s.chans,
    statusLog := s.statusLog }

/-- The command's handle is allocated (44_channel R201). -/
def ChannelReady (i : Instr) (s : State) : Prop := ∀ h, handleOf i = some h → h < s.allocCount.toNat

/-- The command's scaling input passes the policy (43_scaling R181). -/
def RangeReady (i : Instr) (s : State) : Prop :=
  s.params.policy = .fail → ∀ p, scalingInput i = some p → 0 ≤ p.toInt ∧ p.toInt ≤ 100

/-- The command's accesses pass the permission check, where there is one (40_framer R116). -/
def AccessReady (i : Instr) (s : State) : Prop :=
  s.params.checkAccess = true → ∀ e ∈ accessList s.params i, checkAccess s.params e.1 e.2 = true

/-- No pre-check of 60_exceptions R213 fails. -/
structure Ready (i : Instr) (s : State) : Prop where
  channel : ChannelReady i s
  range : RangeReady i s
  access : AccessReady i s

/-- Some access of the command is forbidden by the register table (40_framer R115). -/
def forbiddenAccess (i : Instr) (s : State) : Bool :=
  (accessList s.params i).any (fun e => !checkAccess s.params e.1 e.2)

/-- The run is not faulted, and the command does not fault it: the state is good, and the register table permits every access
of the command (10_state R37, 40_framer R115). With `CHECK_ACCESS` a ready command's accesses are permitted anyway. -/
structure Unfaulted (i : Instr) (s : State) : Prop where
  good : s.Good
  permitted : ∀ e ∈ accessList s.params i, checkAccess s.params e.1 e.2 = true

/-- A write to register `a` leaves the value written: its class is one 40_framer R122 says so of, or the device is the reference
device (60_exceptions R230). In a run that is not faulted only a `ReadWriteSplit` register of a free device is left out, whose
value 20_memory R60 leaves unspecified. -/
def WriteSettles (s : State) (a : Addr) : Prop :=
  s.oracle = .reference ∨ accessClass s.params a ∈ [AccessClass.readWrite, .writeOnly, .writeOnlyHardwarePreset]

/-- The datagrams of an access list, each as its address and whether it is a write request: a read is two, a write one
(40_framer R110, R111, R116). -/
def datagramsOf (accesses : List (Addr × AccessDir)) : List (Addr × Bool) :=
  accesses.flatMap fun e =>
    match e.2 with
    | .read => [(e.1, false), (e.1, false)]
    | .write => [(e.1, true)]

/-- Address and kind of the frame an event sent (30_encoding R71). -/
def BusEvent.datagram (e : BusEvent) : Addr × Bool := (frameAddr e.tx, frameIsWrite e.tx)

/-- The block as it was, but for what commands write: parameters, device law, host port, latched descriptor, host. -/
structure SameSetting (s t : State) : Prop where
  params : t.params = s.params
  oracle : t.oracle = s.oracle
  cmd0 : t.cmd0 = s.cmd0
  cmd1 : t.cmd1 = s.cmd1
  cmd2 : t.cmd2 = s.cmd2
  cmd : t.cmd = s.cmd
  host : t.host = s.host
  hostLog : t.hostLog = s.hostLog

/-- The command has completed with a code and a detail (60_exceptions R212): `BUSY` clear, `DONE` set, idle, the status logged;
`UNDEF_ACCESS` is as given. -/
structure CompletedWith (code : StatusCode) (detail : BitVec 4) (undef : Bool) (s t : State) : Prop where
  status : t.status = { busy := false, done := true, code := code, detail := detail, undefAccess := undef }
  phase : t.phase = .idle
  logged : t.statusLog = s.statusLog ++ [t.status]

/-- The frame of a command that completes `OK` on channel `h` in a run that is not faulted: the setting, the allocation count,
every device register but the ones in its access list on its own chip-select, and every other device's read latch are as before;
`k` has grown by its number of exchanges; the run is still not faulted. -/
structure Finished (i : Instr) (h : Nat) (s t : State) : Prop where
  setting : SameSetting s t
  completed : CompletedWith .ok 0 false s t
  count : t.k = s.k + exchangeCount i
  alloc : t.allocCount = s.allocCount
  regs : ∀ cs a, (cs ≠ (chanOf s h).cs ∨ a ∉ (accessList s.params i).map Prod.fst) → deviceReg t cs a = deviceReg s cs a
  pends : ∀ cs, cs ≠ (chanOf s h).cs → devicePend t cs = devicePend s cs

/-- What a datagram leaves of the block (40_framer R101): one more event on the bus's channel, chip-select de-asserted, `k` one
more, the rest as before. -/
structure DatagramDone (tx : Frame) (s t : State) : Prop where
  setting : SameSetting s t
  event : ∃ rx, t.history = s.history ++ [⟨s.bus.h, tx, rx⟩] ∧
    t.bus = { select := false, h := s.bus.h, cs := s.bus.cs, tx := tx, rx := rx }
  count : t.k = s.k + 1
  status : t.status = s.status
  statusLog : t.statusLog = s.statusLog
  phase : t.phase = s.phase
  result : t.result = s.result
  alloc : t.allocCount = s.allocCount
  rdata : t.rdata = s.rdata
  tgt : t.tgt = s.tgt
  chans : t.chans = s.chans

/-- What a datagram leaves of the devices where the register table permits it (40_framer R122, R123): every register but the
addressed one of the selected device, and the latches of the other devices, as before. -/
structure DevicesKept (tx : Frame) (s t : State) : Prop where
  regs : ∀ cs a, (cs ≠ s.bus.cs ∨ a ≠ frameAddr tx) → deviceReg t cs a = deviceReg s cs a
  pends : ∀ cs, cs ≠ s.bus.cs → devicePend t cs = devicePend s cs

/-- What a command that fails leaves (60_exceptions R211): the state as it was, but for `RESULT`, `STATUS`, the phase and the
log of statuses. -/
def failedState (code : StatusCode) (detail : BitVec 4) (s : State) : State :=
  { s with
    result := 0
    status := { busy := false, done := true, code := code, detail := detail, undefAccess := s.status.undefAccess }
    phase := .idle
    statusLog := s.statusLog ++
      [{ busy := false, done := true, code := code, detail := detail, undefAccess := s.status.undefAccess }] }

/-- The invariant of the reachable states; `State.Sound` takes the premise that the state is not faulted. -/
structure State.Inv (s : State) : Prop where
  /-- 00_scope R6: the parameters are in their ranges. -/
  params : s.params.wf = true
  /-- 10_state R28: the channel file has `MAX_CHANNELS` entries. -/
  channels : s.chans.length = s.params.maxChannels
  /-- 44_channel R202. -/
  allocBound : s.allocCount.toNat ≤ s.params.maxChannels
  /-- 44_channel R202: exactly the entries below `ALLOC_COUNT` are allocated. -/
  allocated : ∀ h, h < s.chans.length → (chanOf s h).alloc = decide (h < s.allocCount.toNat)
  /-- 44_channel R200: an allocated entry has a chip-select line. -/
  chipSelects : ∀ h, h < s.allocCount.toNat → (chanOf s h).cs.toNat < s.params.numCS
  /-- 42_motion R157: the shadow is never `Hold`. -/
  notHold : ∀ h, (chanOf s h).ramp ≠ .mode .hold
  /-- 10_state R25: the phase mirrors `STATUS.BUSY`. -/
  mirrors : s.status.busy = decide (s.phase = .busy)
  /-- 10_state R21: `BUSY` and `DONE` are never both set. -/
  notBoth : (s.status.busy && s.status.done) = false
  /-- 60_exceptions R210: only the code and detail pairs of the table. -/
  outcome : legalOutcome s.status.code s.status.detail = true
  /-- The device registers are in canonical form. -/
  regs : Memory.wf (regDefault s.params) s.regs = true
  /-- The read latches are in canonical form. -/
  pends : Memory.wf pendDefault s.pends = true

/-- The invariant as it is claimed: of a state that is not faulted (10_state R37). -/
def State.Sound (s : State) : Prop := s.Good → s.Inv

end Sys2Proof.Machine
end

