-- ==== Sys2Proof/Certificates/Slice0/Obligations.lean ====
section
/-! DEFINITION. The statements for the provers, from the numbered rules of the spec. By 10_state R37 every claim about a state has
the premise that it is not faulted: `s.Good`; or `t.Good` of the state a step leaves, and so (`UndefAccessIsSticky`) of the state
it starts from; or `Unfaulted i s`. Without the premise stand only the rules of the fault bit itself: `UndefAccessIsSticky`,
`UncheckedViolationFaultsRun`, and that the host reads it (`HostRegisterMap`). -/

open Sys2Proof Sys2Proof.Machine

/-! ### Encodings -/

/-- Decoding the encoding of a well-formed instruction gives it back, every operand at every value (30_encoding R71, R76, R77). -/
def Obligations.DecodeOfEncode : Prop := ∀ i : Instr, i.wf = true → decode (encode i) = .ok i

/-- Every 40-bit frame is the encoding of the datagram it decodes to (30_encoding R71). -/
def Obligations.EncodeOfDecodedFrame : Prop := ∀ f : Frame, encode (decodeFrame f) = .frame f

/-- 30_encoding R81 on every descriptor: a reserved opcode, else a reserved bit, else the command of the opcode with its
operands read from the bits R77 names. -/
def Obligations.DescriptorDecoding : Prop :=
  ∀ d : Descriptor,
    let w := d.w0.toNat
    let op := w % 16
    let h := w / 2 ^ 8 % 256
    let a : Addr := BitVec.ofNat 7 (w / 2 ^ 16)
    let s := w / 2 ^ 24 % 32
    let fwd := w / 2 ^ 29 % 2 = 1
    let clear := d.w0 &&& 0xC08000F0 = 0
    ((op = 0x0 ∨ op = 0xD ∨ op = 0xE ∨ op = 0xF) → decodeCommand d = .error .reservedOpcode) ∧
    (1 ≤ op ∧ op ≤ 0xC → ¬ clear → decodeCommand d = .error .reservedBits) ∧
    (clear → op = 0x1 → decodeCommand d = .ok (.init d.w1)) ∧
    (clear → op = 0x2 → decodeCommand d = .ok (.regWrite h a d.w1)) ∧
    (clear → op = 0x3 → decodeCommand d = .ok (.regRead h a)) ∧
    (clear → op = 0x4 → decodeCommand d = .ok (.fieldRead h a s d.w1)) ∧
    (clear → op = 0x5 → decodeCommand d = .ok (.fieldWrite h a s d.w1 d.w2)) ∧
    (clear → op = 0x6 → decodeCommand d = .ok (.rotate h d.w1)) ∧
    (clear → op = 0x7 → decodeCommand d = .ok (.moveTo h d.w1 d.w2)) ∧
    (clear → op = 0x8 → decodeCommand d = .ok (.moveBy h d.w1 d.w2)) ∧
    (clear → op = 0x9 → decodeCommand d = .ok (.setDirection h (decide fwd))) ∧
    (clear → op = 0xA → decodeCommand d = .ok (.setVelocity h d.w1)) ∧
    (clear → op = 0xB → decodeCommand d = .ok (.setAcceleration h d.w1)) ∧
    (clear → op = 0xC → decodeCommand d = .ok (.setPosition h d.w1))

/-- The worked encodings of 30_encoding R83, read and written. -/
def Obligations.WorkedEncodings : Prop :=
  (∀ e ∈ ([(.rotate 0 (BitVec.ofInt 32 (-300)), ⟨0x00000006, 0xFFFFFED4, 0x00000000⟩),
      (.moveTo 0 (BitVec.ofInt 32 (-42)) 1000, ⟨0x00000007, 0xFFFFFFD6, 0x000003E8⟩),
      (.moveBy 1 500 1000, ⟨0x00000108, 0x000001F4, 0x000003E8⟩),
      (.fieldWrite 0 0x6C 4 0xF 5, ⟨0x046C0005, 0x0000000F, 0x00000005⟩),
      (.setDirection 2 false, ⟨0x00000209, 0x00000000, 0x00000000⟩),
      (.setDirection 2 true, ⟨0x20000209, 0x00000000, 0x00000000⟩)] : List (Instr × Descriptor)),
    encode e.1 = .descriptor e.2 ∧ decodeCommand e.2 = .ok e.1) ∧
  AddrMap.default.chopconf = 0x6C

/-- The bytes of a write request (30_encoding R72) and of the read request the block sends (30_encoding R73). -/
def Obligations.RequestBytes : Prop :=
  ∀ (a : Addr) (v : Word),
    (writeFrame a v = (1#1 ++ a ++ v : BitVec 40) ∧ frameByte (writeFrame a v) 0 = 0x80 ||| a.zeroExtend 8 ∧
     frameByte (writeFrame a v) 1 = v.extractLsb' 24 8 ∧ frameByte (writeFrame a v) 2 = v.extractLsb' 16 8 ∧
     frameByte (writeFrame a v) 3 = v.extractLsb' 8 8 ∧ frameByte (writeFrame a v) 4 = v.extractLsb' 0 8) ∧
    (readFrame a = (0#1 ++ a ++ 0#32 : BitVec 40) ∧ frameByte (readFrame a) 0 = a.zeroExtend 8 &&& 0x7F ∧
     frameByte (readFrame a) 1 = 0 ∧ frameByte (readFrame a) 2 = 0 ∧ frameByte (readFrame a) 3 = 0 ∧
     frameByte (readFrame a) 4 = 0)

/-- A frame is its five bytes, byte 0 first, and its payload is bytes 1 to 4 big-endian (20_memory R55); its bits go out from
`F[39]` to `F[0]` and the receiver of those bits has the frame (20_memory R56). -/
def Obligations.FrameBytesAndBitOrder : Prop :=
  ∀ f : Frame,
    f = (frameByte f 0 ++ frameByte f 1 ++ frameByte f 2 ++ frameByte f 3 ++ frameByte f 4 : BitVec 40) ∧
    framePayload f = (frameByte f 1 ++ frameByte f 2 ++ frameByte f 3 ++ frameByte f 4 : BitVec 32) ∧
    (frameBits f).length = 40 ∧ (∀ i, i < 40 → (frameBits f)[i]? = some (f.getLsbD (39 - i))) ∧
    frameOfBits (frameBits f) = f

/-- The pseudo-commands are the rotations of 30_encoding R86, and `left` runs at the speed of `right` in the other direction, but
for 0 and for `-2^31` (the cases of 42_motion, "Pseudo-commands"). -/
def Obligations.LeftReversesRight : Prop :=
  ∀ (h : Nat) (v : Word),
    pseudoRight h v = .rotate h v ∧ pseudoLeft h v = .rotate h (0 - v) ∧ pseudoStop h = .rotate h 0 ∧
    speedOf (0 - v) = speedOf v ∧
    (v ≠ 0 → v ≠ 0x80000000 → modeOfVelocity (0 - v) ≠ modeOfVelocity v) ∧
    (v = 0 → modeOfVelocity (0 - v) = .velocityPositive ∧ speedOf (0 - v) = 0) ∧
    (v = 0x80000000 → modeOfVelocity (0 - v) = .velocityNegative ∧ speedOf (0 - v) = 0x80000000)

/-- Written commands and what they assemble to (30_encoding R82): names for registers, negative numbers as two's complement,
numbers that do not fit refused. -/
def Obligations.AssemblerLines : Prop :=
  assemble AddrMap.default "move_to 0, -42, 1000" = some (.moveTo 0 0xFFFFFFD6 1000) ∧
  assemble AddrMap.default "field_write 0, CHOPCONF, 0xF, 4, 5 ; a comment" = some (.fieldWrite 0 0x6C 4 0xF 5) ∧
  assemble AddrMap.default "set_direction 2, rev" = some (.setDirection 2 false) ∧
  assemble AddrMap.default "left 0, 5" = some (.rotate 0 0xFFFFFFFB) ∧
  assemble AddrMap.default "reg_read 255, 127" = some (.regRead 255 0x7F) ∧
  assemble AddrMap.default "reg_read 256, 0" = none ∧
  assemble AddrMap.default "reg_read 0, 128" = none ∧
  assemble AddrMap.default "field_read 0, 0, 1, 32" = none ∧
  assemble AddrMap.default "rotate 0, 4294967296" = none

/-! ### Host port -/

/-- 10_state R20: a write to `CMD0` while not busy stores and submits; one to `CMD1` or `CMD2` only stores; any write to them
while busy has no effect. -/
def Obligations.SubmissionLatchesDescriptor : Prop :=
  ∀ (s : State) (v : Word), s.Good →
    (s.status.busy = false →
      hostWrite 0 v s =
        { s with
          cmd0 := v
          cmd := { w0 := v, w1 := s.cmd1, w2 := s.cmd2 }
          status := { busy := true, done := false, code := .ok, detail := 0, undefAccess := s.status.undefAccess }
          phase := .busy
          k := 0 } ∧
      hostWrite 1 v s = { s with cmd1 := v } ∧ hostWrite 2 v s = { s with cmd2 := v }) ∧
    (s.status.busy = true → ∀ idx, hostWrite idx v s = s)

/-- 10_state R24: what each word reads as, that words 3 and above ignore writes, and that a read changes nothing but what the
host knows; of a state that is faulted, only that `STATUS` reads so. -/
def Obligations.HostRegisterMap : Prop :=
  ∀ s : State,
    hostRead s 3 = statusWord s.status ∧
    (s.Good →
    hostRead s 0 = s.cmd0 ∧ hostRead s 1 = s.cmd1 ∧ hostRead s 2 = s.cmd2 ∧
    hostRead s 4 = s.result ∧ hostRead s 5 = s.allocCount ∧ (∀ idx, 6 ≤ idx → hostRead s idx = 0) ∧
    (∀ idx v, 3 ≤ idx → hostAccess (.write idx v) s = s) ∧
    (∀ idx, hostAccess (.read idx) s = { s with hostLog := s.hostLog ++ [(idx, hostRead s idx)] }))

/-- The layout of `STATUS` (10_state R21): each field at its bits, every reserved bit 0; and the numbers of the codes
(60_exceptions R210). -/
def Obligations.StatusLayout : Prop :=
  (∀ st : Status,
    (statusWord st).toNat =
      st.busy.toNat + 2 * st.done.toNat + 16 * (statusCodeBits st.code).toNat + 256 * st.detail.toNat +
        65536 * st.undefAccess.toNat) ∧
  statusCodeBits .ok = 0 ∧ statusCodeBits .initFailure = 1 ∧ statusCodeBits .badChannel = 2 ∧
  statusCodeBits .accessViolation = 3 ∧ statusCodeBits .illegalCommand = 4 ∧ statusCodeBits .rangeError = 5

/-! ### The step -/

/-- A step runs what is decoded: the frame on the bus while a chip-select is asserted (40_framer R101), else the latched
descriptor of a busy sequencer that has performed no exchange (10_state R25). MODEL'S CHOICE, not the spec's: that one step runs
a whole command (notes/assumptions/8.md; 00_scope R7 gives each agent its own step, which `turn` models), and that an idle
block's step is the host's next access (notes/assumptions/9.md). -/
def Obligations.StepRunsDecodedInstruction : Prop :=
  ∀ s : State, s.Good →
    (s.bus.select = true → step s = exec (decodeFrame s.bus.tx) s) ∧
    (s.bus.select = false → s.phase = .busy → s.k = 0 → ∀ i, decodeCommand s.cmd = .ok i → step s = exec i s) ∧
    (s.bus.select = false → s.phase = .idle → step s = .next (hostTurn s))

/-- 30_encoding R79, R80 and 60_exceptions R214: a descriptor that does not decode completes with `ILLEGAL_COMMAND`, detail 1
for a reserved opcode and 2 for a reserved bit, whatever its channel, and changes nothing but `RESULT` and `STATUS`. -/
def Obligations.IllegalDescriptorFails : Prop :=
  ∀ s : State, s.Good → s.bus.select = false → s.phase = .busy → s.k = 0 →
    ((s.cmd.w0.toNat % 16 ∈ [0x0, 0xD, 0xE, 0xF]) → step s = .next (failedState .illegalCommand 1 s)) ∧
    (1 ≤ s.cmd.w0.toNat % 16 ∧ s.cmd.w0.toNat % 16 ≤ 0xC → s.cmd.w0 &&& 0xC08000F0 ≠ 0 →
      step s = .next (failedState .illegalCommand 2 s))

/-- How a program comes to run: the host's three writes of a descriptor take three steps of an idle block and leave the
descriptor latched, and the next step runs the command it decodes to (10_state R20, R27; notes/assumptions/9.md). -/
def Obligations.SubmittedDescriptorRuns : Prop :=
  ∀ (s : State) (d : Descriptor) (rest : List HostAccess),
    s.Good → s.bus.select = false → s.phase = .idle → s.status.busy = false → s.host = submission d ++ rest →
    ∃ t, Host.Core.run Sys2Proof.core 3 s = .next t ∧ t.cmd = d ∧ t.host = rest ∧ t.phase = .busy ∧
      t.status.busy = true ∧ t.k = 0 ∧ t.history = s.history ∧ t.chans = s.chans ∧ t.allocCount = s.allocCount ∧
      t.result = s.result ∧ t.regs = s.regs ∧ t.pends = s.pends ∧
      ∀ i, decodeCommand d = .ok i → Host.Core.run Sys2Proof.core 4 s = exec i t

/-- `withFetchWord` puts an instruction where the next step takes it (notes/assumptions/10.md). -/
def Obligations.FetchedWordRuns : Prop :=
  ∀ (s : State) (i : Instr), s.Good → i.wf = true →
    (∀ d, encode i = .descriptor d →
      step (s.withFetchWord 96 (d.w0.toNat + 2 ^ 32 * d.w1.toNat + 2 ^ 64 * d.w2.toNat)) =
        exec i (s.withFetchWord 96 (d.w0.toNat + 2 ^ 32 * d.w1.toNat + 2 ^ 64 * d.w2.toNat))) ∧
    (∀ f, encode i = .frame f → step (s.withFetchWord 40 f.toNat) = exec i (s.withFetchWord 40 f.toNat))

/-- What may happen while a command runs, besides its own moves: a host access leaves the whole state but what the host knows
(10_state R20), and a device's own change leaves the whole state but that device register (10_state R39). -/
def Obligations.OutsideMovesLeaveTheBlock : Prop :=
  ∀ s : State, s.Good →
    (s.status.busy = true → ∀ acc, turn (.host acc) s = { s with hostLog := (turn (.host acc) s).hostLog }) ∧
    (∀ cs a v, turn (.deviceChange cs a v) s = { s with regs := (turn (.deviceChange cs a v) s).regs } ∧
      (s.oracle = .free → deviceReg (turn (.deviceChange cs a v) s) cs a = some v) ∧
      ∀ cs' a', (cs' ≠ cs ∨ a' ≠ a) → deviceReg (turn (.deviceChange cs a v) s) cs' a' = deviceReg s cs' a')

/-! ### Instructions: result and frame of a ready command in a run that is not faulted (10_state R37) -/

/-- 44_channel R200, all three outcomes: the table full, the chip-select invalid, or the next entry allocated and its handle
returned, with no datagram and every other entry unchanged. -/
def Obligations.InitAllocates : Prop :=
  ∀ (s : State) (cs : Word), s.Good →
    (s.allocCount.toNat = s.params.maxChannels → exec (.init cs) s = .next (failedState .initFailure 1 s)) ∧
    (s.allocCount.toNat ≠ s.params.maxChannels → s.params.numCS ≤ cs.toNat →
      exec (.init cs) s = .next (failedState .initFailure 2 s)) ∧
    (s.allocCount.toNat ≠ s.params.maxChannels → cs.toNat < s.params.numCS →
      exec (.init cs) s = .next
        { s with
          chans := s.chans.set s.allocCount.toNat
            { alloc := true, cs := cs, ramp := .unknown, dir := .forward, vmax := 0 }
          allocCount := s.allocCount + 1
          result := s.allocCount
          status := { busy := false, done := true, code := .ok, detail := 0, undefAccess := s.status.undefAccess }
          phase := .idle
          statusLog := s.statusLog ++
            [{ busy := false, done := true, code := .ok, detail := 0, undefAccess := s.status.undefAccess }] })

/-- 40_framer R120: REG_WRITE sends the one write datagram and completes with `RESULT = 0`; no shadow changes; the register
holds the value (40_framer R122). Run again, the command sends its datagram again and leaves every register as it is (20_memory
R61).
What is said of device registers is of the list of them, where the write settles (40_framer R122, 20_memory R60): MODEL'S
CHOICE that the list, kept per chip-select (notes/assumptions/18.md), holds the last write or sample (5.md), no device moving
within the step or between two (8.md). -/
def Obligations.RegWriteSendsValue : Prop :=
  ∀ (s : State) (h : Nat) (a : Addr) (v : Word), Ready (.regWrite h a v) s →
    Unfaulted (.regWrite h a v) s →
    ∃ t rx, exec (.regWrite h a v) s = .next t ∧ Finished (.regWrite h a v) h s t ∧
      t.history = s.history ++ [⟨h, writeFrame a v, rx⟩] ∧
      t.result = 0 ∧ t.chans = s.chans ∧ t.rdata = s.rdata ∧ t.tgt = s.tgt ∧
      (WriteSettles s a → deviceReg t (chanOf s h).cs a = some v) ∧
      ∃ u rx', exec (.regWrite h a v) t = .next u ∧ u.Good ∧ u.history = t.history ++ [⟨h, writeFrame a v, rx'⟩] ∧
        ∀ cs a', deviceReg u cs a' = deviceReg t cs a'

/-- 40_framer R121, R111, R112: REG_READ sends two identical read datagrams and returns bytes 1 to 4 of the second response.
The register read is left at 0 if reading clears it (40_framer R123; notes/assumptions/17.md), and, at the reference device
(60_exceptions R230), at the value read else; the command run again then returns the same and leaves every register as it is
(20_memory R61).
What is said of device registers is of the list of them: MODEL'S CHOICE that it is kept per chip-select
(notes/assumptions/18.md) and holds the last sample (5.md), no device moving within the step or between two (8.md). -/
def Obligations.RegReadReturnsSecondResponse : Prop :=
  ∀ (s : State) (h : Nat) (a : Addr), Ready (.regRead h a) s →
    Unfaulted (.regRead h a) s →
    ∃ t rx1 rx2, exec (.regRead h a) s = .next t ∧ Finished (.regRead h a) h s t ∧
      t.history = s.history ++ [⟨h, readFrame a, rx1⟩, ⟨h, readFrame a, rx2⟩] ∧
      t.result = framePayload rx2 ∧ t.rdata = framePayload rx2 ∧ t.chans = s.chans ∧ t.tgt = s.tgt ∧
      (accessClass s.params a = .readOnlyClearOnRead → deviceReg t (chanOf s h).cs a = some 0) ∧
      (s.oracle = .reference → accessClass s.params a ≠ .readOnlyClearOnRead →
        deviceReg t (chanOf s h).cs a = some (framePayload rx2) ∧
        ∃ u, exec (.regRead h a) t = .next u ∧ u.Good ∧ u.result = t.result ∧
          ∀ cs a', deviceReg u cs a' = deviceReg t cs a')

/-- 41_field R132: FIELD_READ reads the register and returns `(r >> s) & mask`.
The register read is left at 0 if reading clears it (40_framer R123; notes/assumptions/17.md), and, at the reference device
(60_exceptions R230), at the value read else.
What is said of device registers is of the list of them: MODEL'S CHOICE that it is kept per chip-select
(notes/assumptions/18.md) and holds the last sample (5.md), no device moving within the step (8.md). -/
def Obligations.FieldReadReturnsField : Prop :=
  ∀ (s : State) (h : Nat) (a : Addr) (sh : Nat) (mask : Word), Ready (.fieldRead h a sh mask) s →
    Unfaulted (.fieldRead h a sh mask) s →
    ∃ t rx1 rx2, exec (.fieldRead h a sh mask) s = .next t ∧ Finished (.fieldRead h a sh mask) h s t ∧
      t.history = s.history ++ [⟨h, readFrame a, rx1⟩, ⟨h, readFrame a, rx2⟩] ∧
      t.result = (framePayload rx2 >>> sh) &&& mask ∧ t.rdata = framePayload rx2 ∧ t.chans = s.chans ∧ t.tgt = s.tgt ∧
      (accessClass s.params a = .readOnlyClearOnRead → deviceReg t (chanOf s h).cs a = some 0) ∧
      (s.oracle = .reference → accessClass s.params a ≠ .readOnlyClearOnRead →
        deviceReg t (chanOf s h).cs a = some (framePayload rx2))

/-- 41_field R133: FIELD_WRITE reads, merges, and writes, in that order, the write always made; the register holds the merged
value (40_framer R122).
What is said of device registers is of the list of them, where the write settles (40_framer R122, 20_memory R60): MODEL'S
CHOICE that the list, kept per chip-select (notes/assumptions/18.md), holds the last write or sample (5.md), no device moving
within the step (8.md). -/
def Obligations.FieldWriteMergesField : Prop :=
  ∀ (s : State) (h : Nat) (a : Addr) (sh : Nat) (mask v : Word), Ready (.fieldWrite h a sh mask v) s →
    Unfaulted (.fieldWrite h a sh mask v) s →
    ∃ t rx1 rx2 rx3,
      let old := framePayload rx2
      let new := (old &&& ~~~(mask <<< sh)) ||| ((v &&& mask) <<< sh)
      exec (.fieldWrite h a sh mask v) s = .next t ∧ Finished (.fieldWrite h a sh mask v) h s t ∧
      t.history = s.history ++ [⟨h, readFrame a, rx1⟩, ⟨h, readFrame a, rx2⟩, ⟨h, writeFrame a new, rx3⟩] ∧
      t.result = 0 ∧ t.rdata = old ∧ t.chans = s.chans ∧ t.tgt = s.tgt ∧
      (WriteSettles s a → deviceReg t (chanOf s h).cs a = some new)

/-- 42_motion R152, R153: ROTATE writes `|v|` (wrapped for `-2^31`) to Vmax, then the code of the velocity mode of the sign of
`v` (10_state R33) to the ramp mode; the shadow follows, direction and stored Vmax stay.
What is said of device registers is of the list of them, where the write settles (40_framer R122, 20_memory R60): MODEL'S
CHOICE that the list, kept per chip-select (notes/assumptions/18.md), holds the last write or sample (5.md), no device moving
within the step (8.md). -/
def Obligations.RotateWritesSpeedThenMode : Prop :=
  ∀ (s : State) (h : Nat) (v : Word), Ready (.rotate h v) s →
    Unfaulted (.rotate h v) s →
    let p := s.params
    let mag : Word := if v.toInt < 0 then 0 - v else v
    let code : Word := if v.toInt < 0 then p.rampCode.velocityNegative else p.rampCode.velocityPositive
    let m : RampMode := if v.toInt < 0 then .velocityNegative else .velocityPositive
    ∃ t rx1 rx2, exec (.rotate h v) s = .next t ∧ Finished (.rotate h v) h s t ∧
      t.history = s.history ++ [⟨h, writeFrame p.addr.vmax mag, rx1⟩, ⟨h, writeFrame p.addr.rampmode code, rx2⟩] ∧
      t.result = 0 ∧ t.rdata = s.rdata ∧ t.tgt = s.tgt ∧
      t.chans = s.chans.set h { chanOf s h with ramp := .mode m } ∧
      (WriteSettles s p.addr.rampmode → deviceReg t (chanOf s h).cs p.addr.rampmode = some code) ∧
      (WriteSettles s p.addr.vmax → p.addr.vmax ≠ p.addr.rampmode → deviceReg t (chanOf s h).cs p.addr.vmax = some mag)

/-- 42_motion R154: MOVE_TO writes the ramp mode Position, then Vmax, then XTARGET, both operands unchanged.
What is said of device registers is of the list of them, where the write settles (40_framer R122, 20_memory R60): MODEL'S
CHOICE that the list, kept per chip-select (notes/assumptions/18.md), holds the last write or sample (5.md), no device moving
within the step (8.md). -/
def Obligations.MoveToWritesModeSpeedTarget : Prop :=
  ∀ (s : State) (h : Nat) (pos vel : Word), Ready (.moveTo h pos vel) s →
    Unfaulted (.moveTo h pos vel) s →
    let p := s.params
    ∃ t rx1 rx2 rx3, exec (.moveTo h pos vel) s = .next t ∧ Finished (.moveTo h pos vel) h s t ∧
      t.history = s.history ++
        [⟨h, writeFrame p.addr.rampmode p.rampCode.position, rx1⟩, ⟨h, writeFrame p.addr.vmax vel, rx2⟩,
         ⟨h, writeFrame p.addr.xtarget pos, rx3⟩] ∧
      t.result = 0 ∧ t.rdata = s.rdata ∧ t.tgt = s.tgt ∧
      t.chans = s.chans.set h { chanOf s h with ramp := .mode .position } ∧
      (WriteSettles s p.addr.xtarget → deviceReg t (chanOf s h).cs p.addr.xtarget = some pos) ∧
      (WriteSettles s p.addr.vmax → p.addr.vmax ≠ p.addr.xtarget →
        deviceReg t (chanOf s h).cs p.addr.vmax = some vel) ∧
      (WriteSettles s p.addr.rampmode → p.addr.rampmode ≠ p.addr.vmax → p.addr.rampmode ≠ p.addr.xtarget →
        deviceReg t (chanOf s h).cs p.addr.rampmode = some p.rampCode.position)

/-- 42_motion R155: MOVE_BY reads XACTUAL, then makes the writes of MOVE_TO with the target `x + delta mod 2^32`, which is its
`RESULT`. XACTUAL is left as by REG_READ.
What is said of device registers is of the list of them, where the write settles (40_framer R122, 20_memory R60): MODEL'S
CHOICE that the list, kept per chip-select (notes/assumptions/18.md), holds the last write or sample (5.md), no device moving
within the step (8.md). -/
def Obligations.MoveByAddsToActualPosition : Prop :=
  ∀ (s : State) (h : Nat) (delta vel : Word), Ready (.moveBy h delta vel) s →
    Unfaulted (.moveBy h delta vel) s →
    let p := s.params
    ∃ t rx1 rx2 rx3 rx4 rx5,
      let x := framePayload rx2
      exec (.moveBy h delta vel) s = .next t ∧ Finished (.moveBy h delta vel) h s t ∧
      t.history = s.history ++
        [⟨h, readFrame p.addr.xactual, rx1⟩, ⟨h, readFrame p.addr.xactual, rx2⟩,
         ⟨h, writeFrame p.addr.rampmode p.rampCode.position, rx3⟩, ⟨h, writeFrame p.addr.vmax vel, rx4⟩,
         ⟨h, writeFrame p.addr.xtarget (x + delta), rx5⟩] ∧
      t.result = x + delta ∧ t.tgt = x + delta ∧ t.rdata = x ∧
      t.chans = s.chans.set h { chanOf s h with ramp := .mode .position } ∧
      (WriteSettles s p.addr.xtarget → deviceReg t (chanOf s h).cs p.addr.xtarget = some (x + delta)) ∧
      (WriteSettles s p.addr.vmax → p.addr.vmax ≠ p.addr.xtarget →
        deviceReg t (chanOf s h).cs p.addr.vmax = some vel) ∧
      (WriteSettles s p.addr.rampmode → p.addr.rampmode ≠ p.addr.vmax → p.addr.rampmode ≠ p.addr.xtarget →
        deviceReg t (chanOf s h).cs p.addr.rampmode = some p.rampCode.position) ∧
      (p.addr.xactual ∉ [p.addr.rampmode, p.addr.vmax, p.addr.xtarget] →
        (accessClass p p.addr.xactual = .readOnlyClearOnRead → deviceReg t (chanOf s h).cs p.addr.xactual = some 0) ∧
        (s.oracle = .reference → accessClass p p.addr.xactual ≠ .readOnlyClearOnRead →
          deviceReg t (chanOf s h).cs p.addr.xactual = some x))

/-- 42_motion R156: SET_DIRECTION writes Vmax = 0 strictly before the ramp mode of the direction (10_state R33), and stores the
sign; the stored Vmax stays.
What is said of device registers is of the list of them, where the write settles (40_framer R122, 20_memory R60): MODEL'S
CHOICE that the list, kept per chip-select (notes/assumptions/18.md), holds the last write or sample (5.md), no device moving
within the step (8.md). -/
def Obligations.SetDirectionZeroesSpeedFirst : Prop :=
  ∀ (s : State) (h : Nat) (fwd : Bool), Ready (.setDirection h fwd) s →
    Unfaulted (.setDirection h fwd) s →
    let p := s.params
    let code : Word := if fwd then p.rampCode.velocityPositive else p.rampCode.velocityNegative
    let m : RampMode := if fwd then .velocityPositive else .velocityNegative
    let d : Direction := if fwd then .forward else .reverse
    ∃ t rx1 rx2, exec (.setDirection h fwd) s = .next t ∧ Finished (.setDirection h fwd) h s t ∧
      t.history = s.history ++ [⟨h, writeFrame p.addr.vmax 0, rx1⟩, ⟨h, writeFrame p.addr.rampmode code, rx2⟩] ∧
      t.result = 0 ∧ t.rdata = s.rdata ∧ t.tgt = s.tgt ∧
      t.chans = s.chans.set h { chanOf s h with ramp := .mode m, dir := d } ∧
      (WriteSettles s p.addr.rampmode → deviceReg t (chanOf s h).cs p.addr.rampmode = some code) ∧
      (WriteSettles s p.addr.vmax → p.addr.vmax ≠ p.addr.rampmode → deviceReg t (chanOf s h).cs p.addr.vmax = some 0)

/-- 43_scaling R182: SET_VELOCITY writes the scaled velocity to Vmax, then its quarter (floor, on `i32`) to V1, and stores it.
By 43_scaling R181 what is scaled is the input itself under `PASS` and, in range, under `FAIL`, and its nearest value in
0..100 under `CLAMP`.
What is said of device registers is of the list of them, where the write settles (40_framer R122, 20_memory R60): MODEL'S
CHOICE that the list, kept per chip-select (notes/assumptions/18.md), holds the last write or sample (5.md), no device moving
within the step (8.md). -/
def Obligations.SetVelocityWritesSpeedAndQuarter : Prop :=
  ∀ (s : State) (h : Nat) (input : Word), Ready (.setVelocity h input) s →
    Unfaulted (.setVelocity h input) s →
    let p := s.params
    let x : Int := if p.policy = .clamp then max 0 (min input.toInt 100) else input.toInt
    let v := scale x p.maxVelocity
    ∃ t rx1 rx2, exec (.setVelocity h input) s = .next t ∧ Finished (.setVelocity h input) h s t ∧
      t.history = s.history ++
        [⟨h, writeFrame p.addr.vmax v, rx1⟩, ⟨h, writeFrame p.addr.v1 (v.sshiftRight 2), rx2⟩] ∧
      t.result = 0 ∧ t.rdata = s.rdata ∧ t.tgt = s.tgt ∧
      t.chans = s.chans.set h { chanOf s h with vmax := v } ∧
      (WriteSettles s p.addr.v1 → deviceReg t (chanOf s h).cs p.addr.v1 = some (v.sshiftRight 2)) ∧
      (WriteSettles s p.addr.vmax → p.addr.vmax ≠ p.addr.v1 → deviceReg t (chanOf s h).cs p.addr.vmax = some v)

/-- 43_scaling R183: SET_ACCELERATION writes the scaled acceleration to Amax, then its double modulo `2^32` to A1; no shadow
changes.
By 43_scaling R181 what is scaled is the input itself under `PASS` and, in range, under `FAIL`, and its nearest value in
0..100 under `CLAMP`.
What is said of device registers is of the list of them, where the write settles (40_framer R122, 20_memory R60): MODEL'S
CHOICE that the list, kept per chip-select (notes/assumptions/18.md), holds the last write or sample (5.md), no device moving
within the step (8.md). -/
def Obligations.SetAccelerationWritesValueAndDouble : Prop :=
  ∀ (s : State) (h : Nat) (input : Word), Ready (.setAcceleration h input) s →
    Unfaulted (.setAcceleration h input) s →
    let p := s.params
    let x : Int := if p.policy = .clamp then max 0 (min input.toInt 100) else input.toInt
    let acc := scale x p.maxAcceleration
    ∃ t rx1 rx2, exec (.setAcceleration h input) s = .next t ∧ Finished (.setAcceleration h input) h s t ∧
      t.history = s.history ++
        [⟨h, writeFrame p.addr.amax acc, rx1⟩, ⟨h, writeFrame p.addr.a1 (BitVec.ofNat 32 (2 * acc.toNat)), rx2⟩] ∧
      t.result = 0 ∧ t.rdata = s.rdata ∧ t.tgt = s.tgt ∧ t.chans = s.chans ∧
      (WriteSettles s p.addr.a1 → deviceReg t (chanOf s h).cs p.addr.a1 = some (BitVec.ofNat 32 (2 * acc.toNat))) ∧
      (WriteSettles s p.addr.amax → p.addr.amax ≠ p.addr.a1 → deviceReg t (chanOf s h).cs p.addr.amax = some acc)

/-- 43_scaling R184: SET_POSITION makes the writes of MOVE_TO, to the scaled position times the stored direction sign, at the
stored Vmax.
By 43_scaling R181 what is scaled is the input itself under `PASS` and, in range, under `FAIL`, and its nearest value in
0..100 under `CLAMP`.
What is said of device registers is of the list of them, where the write settles (40_framer R122, 20_memory R60): MODEL'S
CHOICE that the list, kept per chip-select (notes/assumptions/18.md), holds the last write or sample (5.md), no device moving
within the step (8.md). -/
def Obligations.SetPositionMovesBySignedScale : Prop :=
  ∀ (s : State) (h : Nat) (input : Word), Ready (.setPosition h input) s →
    Unfaulted (.setPosition h input) s →
    let p := s.params
    let x : Int := if p.policy = .clamp then max 0 (min input.toInt 100) else input.toInt
    let q := scale x p.maxPosition
    let pos : Word := if (chanOf s h).dir = .forward then q else 0 - q
    ∃ t rx1 rx2 rx3, exec (.setPosition h input) s = .next t ∧ Finished (.setPosition h input) h s t ∧
      t.history = s.history ++
        [⟨h, writeFrame p.addr.rampmode p.rampCode.position, rx1⟩,
         ⟨h, writeFrame p.addr.vmax (chanOf s h).vmax, rx2⟩, ⟨h, writeFrame p.addr.xtarget pos, rx3⟩] ∧
      t.result = 0 ∧ t.rdata = s.rdata ∧ t.tgt = s.tgt ∧
      t.chans = s.chans.set h { chanOf s h with ramp := .mode .position } ∧
      (WriteSettles s p.addr.xtarget → deviceReg t (chanOf s h).cs p.addr.xtarget = some pos) ∧
      (WriteSettles s p.addr.vmax → p.addr.vmax ≠ p.addr.xtarget →
        deviceReg t (chanOf s h).cs p.addr.vmax = some (chanOf s h).vmax) ∧
      (WriteSettles s p.addr.rampmode → p.addr.rampmode ≠ p.addr.vmax → p.addr.rampmode ≠ p.addr.xtarget →
        deviceReg t (chanOf s h).cs p.addr.rampmode = some p.rampCode.position)

/-- 40_framer R122: DG.WRITE on the device the bus has selected (MODEL'S CHOICE: notes/assumptions/7.md). Where the class permits
a write it changes no register but the addressed one of that device, which then holds the payload, but that a `ReadWriteSplit`
register of a free device holds an unspecified value of that register and payload (20_memory R60; 6.md); sent again, it leaves
every register as it is (20_memory R61); nothing of the block but the exchange changes. MODEL'S CHOICE that the list of
registers, kept per chip-select (18.md), holds the last write (5.md), no device moving between two steps (8.md), and that
a datagram the class forbids leaves `UNDEF_ACCESS` to the command that sends it (22.md). -/
def Obligations.DatagramWriteSetsRegister : Prop :=
  ∀ (s : State) (a : Addr) (v : Word), s.Good →
    ∃ t, exec (.dgWrite a v) s = .next t ∧ DatagramDone (writeFrame a v) s t ∧
      (accessClass s.params a ∈ [AccessClass.readWrite, .writeOnly, .writeOnlyHardwarePreset, .readWriteSplit] →
        DevicesKept (writeFrame a v) s t ∧
        (accessClass s.params a ≠ .readWriteSplit → deviceReg t s.bus.cs a = some v) ∧
        (accessClass s.params a = .readWriteSplit → s.oracle = .reference → deviceReg t s.bus.cs a = some v) ∧
        (accessClass s.params a = .readWriteSplit → s.oracle = .free →
          deviceReg t s.bus.cs a = some (Config.splitWrite s.bus.cs a v)) ∧
        ∃ u rx, exec (.dgWrite a v) t = .next u ∧ u.history = t.history ++ [⟨s.bus.h, writeFrame a v, rx⟩] ∧
          ∀ cs a', deviceReg u cs a' = deviceReg t cs a')

/-- 40_framer R123: DG.READ on the device the bus has selected (MODEL'S CHOICE: notes/assumptions/7.md). Where the class permits
a read, it samples the addressed register into that device's latch, which the next exchange on that device returns in bytes 1 to
4; sampling clears a `ReadOnlyClearOnRead` register (17.md); the payload of the request is ignored (14.md); no other register or
device changes. What is sampled is the register's value, free where the device may have changed it. MODEL'S CHOICE: what the list
of registers, kept per chip-select (18.md), holds after it (5.md), that the reference device reads 0 where nothing is listed
(20.md), and that a datagram the class forbids leaves `UNDEF_ACCESS` to the command that sends it (22.md). -/
def Obligations.DatagramReadSamplesRegister : Prop :=
  ∀ (s : State) (a : Addr) (payload : Word), s.Good →
    ∃ t, exec (.dgRead a payload) s = .next t ∧ DatagramDone (readFrameWith a payload) s t ∧
      (accessClass s.params a ∈ [AccessClass.readOnly, .readWrite, .readWriteSplit, .readOnlyClearOnRead] →
        DevicesKept (readFrameWith a payload) s t ∧
        ∃ v, devicePend t s.bus.cs = some v ∧
          (s.oracle = .reference → v = (deviceReg s s.bus.cs a).getD 0) ∧
          deviceReg t s.bus.cs a = some (if accessClass s.params a = .readOnlyClearOnRead then 0 else v) ∧
          (∀ f : Frame, ∃ u rx, exec (decodeFrame f) t = .next u ∧ u.history = t.history ++ [⟨s.bus.h, f, rx⟩] ∧
            framePayload rx = v) ∧
          (∀ payload', ∃ t', exec (.dgRead a payload') s = .next t' ∧ t'.regs = t.regs ∧ t'.pends = t.pends))

/-! ### Failures -/

/-- 44_channel R201, 60_exceptions R215: a command on a handle that is not allocated fails with `BAD_CHANNEL`, detail 1,
whatever else is wrong with it. -/
def Obligations.UnallocatedChannelFails : Prop :=
  ∀ (i : Instr) (h : Nat) (s : State), s.Good → handleOf i = some h → s.allocCount.toNat ≤ h →
    exec i s = .next (failedState .badChannel 1 s)

/-- 60_exceptions R217, 43_scaling R181: under `FAIL` a scaling command on an allocated channel whose input is out of range
fails with `RANGE_ERROR`, before any permission is looked at. -/
def Obligations.OutOfRangeInputFails : Prop :=
  ∀ (i : Instr) (p : Word) (s : State), s.Good → scalingInput i = some p → ChannelReady i s → s.params.policy = .fail →
    (p.toInt < 0 → exec i s = .next (failedState .rangeError 1 s)) ∧
    (100 < p.toInt → exec i s = .next (failedState .rangeError 2 s))

/-- 40_framer R116: the access list of every command, in command order; and, with `CHECK_ACCESS`, the first pair of it that the
table forbids decides the failure (60_exceptions R216), detail 1 for a read and 2 for a write, with no datagram sent. -/
def Obligations.ForbiddenAccessFails : Prop :=
  (∀ (p : Params) (h sh : Nat) (a : Addr) (v w : Word) (fwd : Bool),
    let vmax := p.addr.vmax
    let rampmode := p.addr.rampmode
    let xtarget := p.addr.xtarget
    accessList p (.init v) = [] ∧
    accessList p (.regWrite h a v) = [(a, .write)] ∧
    accessList p (.regRead h a) = [(a, .read)] ∧
    accessList p (.fieldRead h a sh v) = [(a, .read)] ∧
    accessList p (.fieldWrite h a sh v w) = [(a, .read), (a, .write)] ∧
    accessList p (.rotate h v) = [(vmax, .write), (rampmode, .write)] ∧
    accessList p (.moveTo h v w) = [(rampmode, .write), (vmax, .write), (xtarget, .write)] ∧
    accessList p (.moveBy h v w) =
      [(p.addr.xactual, .read), (rampmode, .write), (vmax, .write), (xtarget, .write)] ∧
    accessList p (.setDirection h fwd) = [(vmax, .write), (rampmode, .write)] ∧
    accessList p (.setVelocity h v) = [(vmax, .write), (p.addr.v1, .write)] ∧
    accessList p (.setAcceleration h v) = [(p.addr.amax, .write), (p.addr.a1, .write)] ∧
    accessList p (.setPosition h v) = [(rampmode, .write), (vmax, .write), (xtarget, .write)]) ∧
  ∀ (i : Instr) (s : State) (before after : List (Addr × AccessDir)) (a : Addr) (dir : AccessDir),
    s.Good → ChannelReady i s → RangeReady i s → s.params.checkAccess = true →
    accessList s.params i = before ++ (a, dir) :: after →
    (∀ e ∈ before, checkAccess s.params e.1 e.2 = true) → checkAccess s.params a dir = false →
    (dir = .read → exec i s = .next (failedState .accessViolation 1 s)) ∧
    (dir = .write → exec i s = .next (failedState .accessViolation 2 s))

/-- 40_framer R103: the permission matrix, read and write, by the class the register table gives the address; and what it gives:
a listed address its entry's class and reset value, an unlisted one `None` and `NotApplicable` (10_state R31, 20_memory R52). -/
def Obligations.PermissionMatrix : Prop :=
  ∀ (p : Params) (a : Addr),
    (checkAccess p a .read = true ↔
      accessClass p a ∈ [AccessClass.readOnly, .readWrite, .readWriteSplit, .readOnlyClearOnRead]) ∧
    (checkAccess p a .write = true ↔
      accessClass p a ∈ [AccessClass.writeOnly, .readWrite, .readWriteSplit, .writeOnlyHardwarePreset]) ∧
    (∀ e, p.wf = true → (a, e) ∈ p.regTable → accessClass p a = e.cls ∧ powerOn p a = e.reset) ∧
    ((∀ e ∈ p.regTable, e.1 ≠ a) → accessClass p a = .none ∧ powerOn p a = none)

/-- 60_exceptions R211, R221: a command that fails leaves the state as it was but for `RESULT`, `STATUS` (with `UNDEF_ACCESS`
kept), the phase and the log of statuses. -/
def Obligations.FailureIsPrecise : Prop :=
  ∀ (i : Instr) (s t : State), i.isCommand = true → exec i s = .next t → t.Good → t.status.code ≠ .ok →
    ∃ code detail, legalOutcome code detail = true ∧ t = failedState code detail s

/-- 60_exceptions R211, 70_reset_and_hazards R254: a command either completes `OK` after exactly its number of exchanges, which
are those of its access list, in order and on its own channel (40_framer R116), or fails after none. -/
def Obligations.AllExchangesOrNone : Prop :=
  ∀ (i : Instr) (s t : State), i.isCommand = true → exec i s = .next t → t.Good →
    (t.status.code = .ok ∧ t.k = s.k + exchangeCount i ∧
      ∃ evs, t.history = s.history ++ evs ∧ evs.length = exchangeCount i ∧
        evs.map BusEvent.datagram = datagramsOf (accessList s.params i) ∧ ∀ e ∈ evs, handleOf i = some e.h) ∨
    (t.status.code ≠ .ok ∧ t.k = s.k ∧ t.history = s.history)

/-- 70_reset_and_hazards R254, 10_state R27: every command completes, after at most 5 exchanges, idle, with `DONE` and one of the
outcomes of 60_exceptions R210; of a command that faults the run `UncheckedViolationFaultsRun` speaks. -/
def Obligations.EveryCommandCompletes : Prop :=
  ∀ (i : Instr) (s : State), s.Good → i.isCommand = true →
    ∃ t, exec i s = .next t ∧
      (t.Good → t.phase = .idle ∧ t.status.busy = false ∧ t.status.done = true ∧
        legalOutcome t.status.code t.status.detail = true ∧ t.k ≤ s.k + 5)

/-- 10_state R37: `UNDEF_ACCESS` is set only with `CHECK_ACCESS = false`. -/
def Obligations.CheckedCommandsStayGood : Prop :=
  ∀ (i : Instr) (s t : State), i.isCommand = true → s.params.checkAccess = true → exec i s = .next t →
    s.Good → t.Good

/-- 40_framer R115, 10_state R37: a command that passes its pre-check with a forbidden access still sends all its datagrams and
completes, and leaves a faulted state, from which no run comes to a good end. -/
def Obligations.UncheckedViolationFaultsRun : Prop :=
  ∀ (i : Instr) (s : State), i.isCommand = true → Ready i s → forbiddenAccess i s = true →
    s.params.checkAccess = false ∧
    ∃ t evs, exec i s = .next t ∧
      t.status = { busy := false, done := true, code := .ok, detail := 0, undefAccess := true } ∧ ¬ t.Good ∧
      t.history = s.history ++ evs ∧ evs.map BusEvent.datagram = datagramsOf (accessList s.params i) ∧
      ∀ n u, Host.Core.run Sys2Proof.core n t = .next u → ¬ u.GoodEnd

/-- 10_state R37: nothing clears `UNDEF_ACCESS`; so a run that ends in a good state was in good states only. -/
def Obligations.UndefAccessIsSticky : Prop :=
  (∀ s t : State, step s = .next t → s.status.undefAccess = true → t.status.undefAccess = true) ∧
  ∀ (n m : Nat) (s t u : State), Host.Core.run Sys2Proof.core n s = .next t → Host.Core.run Sys2Proof.core m t = .next u →
    u.GoodEnd → t.Good ∧ s.Good

/-! ### Invariant and whole-machine rules -/

/-- Every step keeps the invariant of states that are not faulted: the allocation rule of 44_channel R202, no `Hold` shadow
(42_motion R157), the phase mirroring `BUSY` (10_state R25), legal status pairs (60_exceptions R210), canonical device memory. -/
def Obligations.StepKeepsInvariant : Prop := ∀ s t : State, s.Sound → step s = .next t → t.Sound

/-- The reset state of any admissible parameters is not faulted and meets the invariant. -/
def Obligations.ResetMeetsInvariant : Prop :=
  (∀ p : Params, p.wf = true → (State.resetWith p).Good ∧ (State.resetWith p).Inv) ∧
    State.reset.Good ∧ State.reset.Inv

/-- The block after reset (10_state R40, 70_reset_and_hazards R242): idle, `STATUS` 0, every register and channel at its value,
no datagram (MODEL'S CHOICE: notes/assumptions/3.md); and every command but `INIT` completes with `BAD_CHANNEL`. That the list of
device registers reads as their power-on values then is MODEL'S CHOICE (12.md): 70_reset_and_hazards R241 lets a device hold any
values across a reset of the block. -/
def Obligations.ResetState : Prop :=
  ∀ p : Params,
    let s := State.resetWith p
    statusWord s.status = 0 ∧ s.result = 0 ∧ s.allocCount = 0 ∧ s.cmd0 = 0 ∧ s.cmd1 = 0 ∧ s.cmd2 = 0 ∧
    s.phase = .idle ∧ s.cmd = ⟨0, 0, 0⟩ ∧ s.k = 0 ∧ s.rdata = 0 ∧ s.tgt = 0 ∧ s.history = [] ∧
    (∀ h, chanOf s h = { alloc := false, cs := 0, ramp := .unknown, dir := .forward, vmax := 0 }) ∧
    s.params = p ∧ (∀ cs a, deviceReg s cs a = powerOn p a) ∧
    ∀ i, i.isCommand = true → (∀ cs, i ≠ .init cs) → exec i s = .next (failedState .badChannel 1 s)

/-- 10_state R31: no step changes the register table or any other parameter. -/
def Obligations.ParametersNeverChange : Prop :=
  ∀ s t : State, step s = .next t → t.Good → t.params = s.params ∧ t.oracle = s.oracle

/-- 10_state R23: only `INIT` changes `ALLOC_COUNT`, or an entry's allocation or chip-select. -/
def Obligations.OnlyInitAllocates : Prop :=
  ∀ (i : Instr) (s t : State), (∀ cs, i ≠ .init cs) → exec i s = .next t → t.Good →
    t.allocCount = s.allocCount ∧ t.chans.length = s.chans.length ∧
    ∀ h, (chanOf t h).alloc = (chanOf s h).alloc ∧ (chanOf t h).cs = (chanOf s h).cs

/-- 10_state R28, R35, R36: the direction sign is written by `SET_DIRECTION` alone and the stored Vmax by `SET_VELOCITY` alone,
but for `INIT`, and each on the command's own channel. -/
def Obligations.StoredSignAndSpeedWriters : Prop :=
  ∀ (i : Instr) (s t : State), (∀ cs, i ≠ .init cs) → exec i s = .next t → t.Good → ∀ h,
    ((∀ fwd, i ≠ .setDirection h fwd) → (chanOf t h).dir = (chanOf s h).dir) ∧
    ((∀ p, i ≠ .setVelocity h p) → (chanOf t h).vmax = (chanOf s h).vmax)

/-- 42_motion R150, 10_state R34: nothing depends on the ramp-mode shadow: with one shadow replaced, an instruction leaves the
same state, but for shadows. -/
def Obligations.RampShadowIsNeverRead : Prop :=
  ∀ (i : Instr) (s t : State) (h : Nat) (m : RampMode), exec i s = .next t → t.Good →
    ∃ t', exec i (setRamp h m s) = .next t' ∧ { t' with chans := t.chans } = t ∧ t'.chans.length = t.chans.length ∧
      ∀ h', { chanOf t' h' with ramp := (chanOf t h').ramp } = chanOf t h'

/-- 10_state R26: no rule reads a scratch register before the same command has written it, so nothing observable depends on
what they held. -/
def Obligations.ScratchRegistersUnobservable : Prop :=
  ∀ (i : Instr) (s t : State) (x y : Word), exec i s = .next t → t.Good →
    ∃ t', exec i { s with rdata := x, tgt := y } = .next t' ∧ observe t' = observe t ∧ t'.regs = t.regs ∧
      t'.pends = t.pends

/-- 10_state R22, 20_memory R68: `RESULT` changes only in a move that completes a command. -/
def Obligations.ResultWrittenAtCompletion : Prop :=
  ∀ (m : Turn) (s : State), (turn m s).Good → (turn m s).result ≠ s.result →
    m = .sequencer ∧ s.phase = .busy ∧ (turn m s).phase = .idle ∧ (turn m s).status.busy = false ∧
      (turn m s).status.done = true

/-- The finer machine and the step agree (00_scope R7, 10_state R27, 41_field R136): from the latched descriptor on, the
sequencer's and the device's moves one by one, as many as the command has exchanges, or the one failing move, reach the state
that one step reaches. -/
def Obligations.AgentMovesReachCommandEnd : Prop :=
  ∀ (i : Instr) (s t : State), s.bus.select = false → s.phase = .busy → s.k = 0 → decodeCommand s.cmd = .ok i →
    step s = .next t → t.Good →
    ∃ n, n ≤ 5 ∧ (n = exchangeCount i ∨ n = 0) ∧ (Ready i s → n = exchangeCount i) ∧
      turns (commandTurns n) s = t

/-! ### Field and scaling arithmetic -/

/-- 41_field R134: bits outside the field keep their value, and the field reads back as the masked value if the mask fits. -/
def Obligations.FieldIsolation : Prop :=
  ∀ (old mask value : Word) (s : Nat), s < 32 →
    fieldSet old mask s value &&& ~~~(mask <<< s) = old &&& ~~~(mask <<< s) ∧
    (mask.toNat < 2 ^ (32 - s) → fieldGet (fieldSet old mask s value) mask s = value &&& mask)

/-- 41_field R135: with a mask too wide for its shift, what reads back is the masked value's bits that exist. -/
def Obligations.MaskOverflow : Prop :=
  (∀ (old mask value : Word) (s : Nat), s < 32 → 2 ^ (32 - s) ≤ mask.toNat →
    fieldSet old mask s value &&& ~~~(mask <<< s) = old &&& ~~~(mask <<< s) ∧
    fieldGet (fieldSet old mask s value) mask s = value &&& mask &&& BitVec.ofNat 32 (2 ^ (32 - s) - 1)) ∧
  fieldSet 0 0xFF 28 0xAB = 0xB0000000 ∧ fieldGet (fieldSet 0 0xFF 28 0xAB) 0xFF 28 = 0x0B

/-- The rounding of 43_scaling R180: the scaled value is the nearest integer to `p * MAX / 100`, halves away from zero, wrapped
to 32 bits. -/
def Obligations.ScaleRoundsHalvesAway : Prop :=
  ∀ (p : Int) (max : Nat), ∃ r : Int,
    scale p max = BitVec.ofInt 32 r ∧
    (0 ≤ p * max → p * max - 50 < 100 * r ∧ 100 * r ≤ p * max + 50) ∧
    (p * max ≤ 0 → p * max - 50 ≤ 100 * r ∧ 100 * r < p * max + 50)

/-- What each policy makes of an input (43_scaling R181). And 43_scaling section 3, an inference of the spec: over 0..100 scaling
is monotone from 0 to `MAX` within 0..MAX; under `CLAMP` monotone over every input;
under `PASS` over every input whose rounded product stays in the `i32` range. -/
def Obligations.ScaleIsMonotone : Prop :=
  ∀ max : Nat, max < 2 ^ 31 →
    (∀ p1 p2 : Int, 0 ≤ p1 → p1 ≤ p2 → p2 ≤ 100 → (scale p1 max).toNat ≤ (scale p2 max).toNat) ∧
    scale 0 max = 0 ∧ (scale 100 max).toNat = max ∧
    (∀ p : Int, 0 ≤ p → p ≤ 100 → (scale p max).toNat ≤ max) ∧
    (∀ p : Int, policyInput .pass p = p ∧ policyInput .clamp p = Max.max 0 (min p 100) ∧
      (0 ≤ p → p ≤ 100 → policyInput .fail p = p)) ∧
    (∀ p1 p2 : Int, p1 ≤ p2 → (scale (policyInput .clamp p1) max).toNat ≤ (scale (policyInput .clamp p2) max).toNat) ∧
    (∀ p1 p2 : Int, p1 ≤ p2 → -(2 ^ 31) ≤ roundHundredth (p1 * max) → roundHundredth (p2 * max) < 2 ^ 31 →
      (scale (policyInput .pass p1) max).toInt ≤ (scale (policyInput .pass p2) max).toInt)

/-- 43_scaling R186: V1 is the floor of a quarter of Vmax, and four times V1 is Vmax less its remainder by 4. -/
def Obligations.QuarterLaw : Prop :=
  ∀ s : Word, (quarter s).toInt = s.toInt / 4 ∧ 4 * (quarter s).toInt = s.toInt - s.toInt % 4 ∧
    (4 * (quarter s).toInt = s.toInt ↔ s.toInt % 4 = 0)

/-- 42_motion R152, R153: the speed written is the magnitude of the velocity, for `-2^31` too when read without sign. -/
def Obligations.SpeedIsMagnitude : Prop :=
  ∀ v : Word, (speedOf v).toNat = v.toInt.natAbs ∧ (v ≠ 0x80000000 → 0 ≤ (speedOf v).toInt) ∧
    speedOf 0x80000000 = 0x80000000

/-! ### Devices -/

/-- 40_framer R111, R104: what REG_READ returns is what the register held at the FIRST request: the register's value at the
reference device, the free draw of that request elsewhere; never a value the block wrote by virtue of having written it. The
reference device reads 0 where nothing is listed (notes/assumptions/20.md). -/
def Obligations.ReadReturnsFirstSample : Prop :=
  ∀ (s t : State) (h : Nat) (a : Addr), Ready (.regRead h a) s → Unfaulted (.regRead h a) s →
    exec (.regRead h a) s = .next t →
    (s.oracle = .reference → t.result = (deviceReg s (chanOf s h).cs a).getD 0) ∧
    (s.oracle = .free → t.result = Config.sample s.draws)

/-- The round trip of the source (95_test_vectors V1.1, 60_exceptions R230): at the reference device a register of class
`ReadWrite` reads back what was written. -/
def Obligations.ReferenceRoundTrip : Prop :=
  ∀ (s : State) (h : Nat) (a : Addr) (v : Word), s.Good → s.oracle = .reference → h < s.allocCount.toNat →
    accessClass s.params a = .readWrite →
    ∃ t u, exec (.regWrite h a v) s = .next t ∧ exec (.regRead h a) t = .next u ∧ u.result = v ∧
      u.status.code = .ok ∧ u.Good

/-- The field law at the reference device (41_field R134): for a register of class `ReadWrite` and a mask that fits, FIELD_READ
after FIELD_WRITE returns the masked value, and the register keeps its bits outside the field; one not
listed counts as 0 (notes/assumptions/20.md). -/
def Obligations.ReferenceFieldRoundTrip : Prop :=
  ∀ (s : State) (h : Nat) (a : Addr) (sh : Nat) (mask v : Word), s.Good → s.oracle = .reference → h < s.allocCount.toNat →
    accessClass s.params a = .readWrite → sh < 32 → mask.toNat < 2 ^ (32 - sh) →
    ∃ t u new, exec (.fieldWrite h a sh mask v) s = .next t ∧ deviceReg t (chanOf s h).cs a = some new ∧
      new &&& ~~~(mask <<< sh) = (deviceReg s (chanOf s h).cs a).getD 0 &&& ~~~(mask <<< sh) ∧
      exec (.fieldRead h a sh mask) t = .next u ∧ u.result = v &&& mask

/-- 60_exceptions R230, R231: the reference device's exchange. It answers a zero byte and its latch; a write sets the register
and the latch whatever the class; a read latches the register, and clears it if its class is `ReadOnlyClearOnRead`; it never
changes a register by itself. MODEL'S CHOICE: the device that acts is the one the bus has selected (notes/assumptions/7.md),
registers and latch belong to a chip-select where R230 has them per channel (18.md), what nothing lists reads as 0 (20.md), and a datagram
the class forbids leaves the fault bit to the command that sends it (22.md), so it may be on the bus of a state not faulted. -/
def Obligations.ReferenceDeviceExchange : Prop :=
  ∀ (s : State) (f : Frame), s.Good → s.oracle = .reference →
    let cs := s.bus.cs
    let a : Addr := BitVec.ofNat 7 (frameByte f 0).toNat
    let v := framePayload f
    let held := (deviceReg s cs a).getD 0
    ∃ t, exec (decodeFrame f) s = .next t ∧
      t.history = s.history ++ [⟨s.bus.h, f, (0x00#8 ++ (devicePend s cs).getD 0 : BitVec 40)⟩] ∧
      (128 ≤ (frameByte f 0).toNat → deviceReg t cs a = some v ∧ devicePend t cs = some v) ∧
      ((frameByte f 0).toNat < 128 → devicePend t cs = some held ∧
        deviceReg t cs a = some (if accessClass s.params a = .readOnlyClearOnRead then 0 else held)) ∧
      (∀ cs' a', (cs' ≠ cs ∨ a' ≠ a) → deviceReg t cs' a' = deviceReg s cs' a') ∧
      (∀ cs', cs' ≠ cs → devicePend t cs' = devicePend s cs') ∧
      (∀ cs' a' v', turn (.deviceChange cs' a' v') s = s)
end

