-- ==== Sys2Proof/Laws/Arith.lean ====
section
/-! SUPPORT. Rounding: what the provers of the scaling statements need of it. -/

namespace Sys2Proof.Machine

/-- Rounding keeps order (43_scaling R180). -/
theorem roundHundredth_mono {m n : Int} (h : m ≤ n) : roundHundredth m ≤ roundHundredth n := by
  unfold roundHundredth
  rcases lt_trichotomy m 0 with hm | rfl | hm <;> rcases lt_trichotomy n 0 with hn | rfl | hn <;>
    simp only [Int.sign_eq_neg_one_of_neg, Int.sign_eq_one_of_pos, Int.sign_zero, *] <;> omega

/-- A whole number of hundredths rounds to itself. -/
theorem roundHundredth_hundred_mul (m : Nat) : roundHundredth (100 * m) = m := by
  unfold roundHundredth
  rcases Nat.eq_zero_or_pos m with rfl | h
  · rfl
  · rw [Int.sign_eq_one_of_pos (by omega)]; omega

end Sys2Proof.Machine
end

