-- ==== Sys2Proof/Laws/Codec.lean ====
section
/-! SUPPORT. The fields of the frames and control words the encoder builds. -/

namespace Sys2Proof

@[simp] theorem frameIsWrite_writeFrame (a : Addr) (v : Word) : frameIsWrite (writeFrame a v) = true := by
  simp only [frameIsWrite, writeFrame, BitVec.getLsbD_append]
  simp

@[simp] theorem frameIsWrite_readFrameWith (a : Addr) (v : Word) : frameIsWrite (readFrameWith a v) = false := by
  simp only [frameIsWrite, readFrameWith, BitVec.getLsbD_append]
  simp

@[simp] theorem frameAddr_writeFrame (a : Addr) (v : Word) : frameAddr (writeFrame a v) = a := by
  apply BitVec.eq_of_getLsbD_eq
  intro i hi
  simp only [frameAddr, writeFrame, BitVec.getLsbD_extractLsb', BitVec.getLsbD_append]
  simp [hi, show ¬ 32 + i < 32 by omega]

@[simp] theorem frameAddr_readFrameWith (a : Addr) (v : Word) : frameAddr (readFrameWith a v) = a := by
  apply BitVec.eq_of_getLsbD_eq
  intro i hi
  simp only [frameAddr, readFrameWith, BitVec.getLsbD_extractLsb', BitVec.getLsbD_append]
  simp [hi, show ¬ 32 + i < 32 by omega]

@[simp] theorem frameIsWrite_readFrame (a : Addr) : frameIsWrite (readFrame a) = false := frameIsWrite_readFrameWith a 0

@[simp] theorem frameAddr_readFrame (a : Addr) : frameAddr (readFrame a) = a := frameAddr_readFrameWith a 0

@[simp] theorem framePayload_writeFrame (a : Addr) (v : Word) : framePayload (writeFrame a v) = v := by
  apply BitVec.eq_of_getLsbD_eq
  intro i hi
  simp only [framePayload, writeFrame, BitVec.getLsbD_extractLsb', BitVec.getLsbD_append]
  simp [hi]

@[simp] theorem framePayload_readFrameWith (a : Addr) (v : Word) : framePayload (readFrameWith a v) = v := by
  apply BitVec.eq_of_getLsbD_eq
  intro i hi
  simp only [framePayload, readFrameWith, BitVec.getLsbD_extractLsb', BitVec.getLsbD_append]
  simp [hi]

/-- An answer's payload is its bytes 1..4. -/
@[simp] theorem framePayload_append (b : Byte) (v : Word) : framePayload (b ++ v) = v := by
  apply BitVec.eq_of_getLsbD_eq
  intro i hi
  simp only [framePayload, BitVec.getLsbD_extractLsb', BitVec.getLsbD_append]
  simp [hi]

/-- The opcode field of a control word is the opcode it was built with. -/
@[simp] theorem opField_controlWord (op : BitVec 4) (h : Nat) (a : Addr) (s : Nat) (fwd : Bool) :
    opField (controlWord op h a s fwd) = op := by
  apply BitVec.eq_of_getLsbD_eq
  intro i hi
  simp only [opField, controlWord, BitVec.getLsbD_extractLsb', BitVec.getLsbD_append]
  simp [hi]

/-- A control word sets no reserved bit (30_encoding R76). -/
@[simp] theorem controlWord_reserved (op : BitVec 4) (h : Nat) (a : Addr) (s : Nat) (fwd : Bool) :
    controlWord op h a s fwd &&& reservedMask = 0 := by
  apply BitVec.eq_of_getLsbD_eq
  intro i hi
  simp only [BitVec.getLsbD_and, controlWord, BitVec.getLsbD_append]
  interval_cases i <;> simp [reservedMask]

/-- The handle field of a control word is the handle it was built with, if that fits (30_encoding R76). -/
theorem chField_controlWord (op : BitVec 4) {h : Nat} (a : Addr) (s : Nat) (fwd : Bool) (hh : h < 256) :
    chField (controlWord op h a s fwd) = h := by
  have : (controlWord op h a s fwd).extractLsb' 8 8 = BitVec.ofNat 8 h := by
    apply BitVec.eq_of_getLsbD_eq
    intro i hi
    simp only [controlWord, BitVec.getLsbD_extractLsb', BitVec.getLsbD_append]
    interval_cases i <;> simp
  simp [chField, this, Nat.mod_eq_of_lt hh]

/-- The shift field of a control word is the shift it was built with, if that fits (30_encoding R76). -/
theorem shiftField_controlWord (op : BitVec 4) (h : Nat) (a : Addr) {s : Nat} (fwd : Bool) (hs : s < 32) :
    shiftField (controlWord op h a s fwd) = s := by
  have : (controlWord op h a s fwd).extractLsb' 24 5 = BitVec.ofNat 5 s := by
    apply BitVec.eq_of_getLsbD_eq
    intro i hi
    simp only [controlWord, BitVec.getLsbD_extractLsb', BitVec.getLsbD_append]
    interval_cases i <;> simp
  simp [shiftField, this, Nat.mod_eq_of_lt hs]

/-- The address field of a control word is the address it was built with. -/
@[simp] theorem addrField_controlWord (op : BitVec 4) (h : Nat) (a : Addr) (s : Nat) (fwd : Bool) :
    addrField (controlWord op h a s fwd) = a := by
  apply BitVec.eq_of_getLsbD_eq
  intro i hi
  simp only [addrField, controlWord, BitVec.getLsbD_extractLsb', BitVec.getLsbD_append]
  interval_cases i <;> simp

/-- The direction bit of a control word is the one it was built with. -/
@[simp] theorem fwdField_controlWord (op : BitVec 4) (h : Nat) (a : Addr) (s : Nat) (fwd : Bool) :
    fwdField (controlWord op h a s fwd) = fwd := by
  simp only [fwdField, controlWord, BitVec.getLsbD_append]
  simp

end Sys2Proof
end

