-- ==== Sys2Proof/Laws/State.lean ====
section
/-! SUPPORT. Which fields each operation leaves as they are: one lemma per field per operation, so that no later proof unfolds a
record update. The fields an operation writes are in Sys2Proof/Laws/Ops.lean. -/

namespace Sys2Proof.Machine

/-! ### setDeviceReg -/

@[simp] theorem setDeviceReg_params (cs : Word) (a : Addr) (v : Word) (s : State) : (setDeviceReg cs a v s).params = s.params := rfl
@[simp] theorem setDeviceReg_oracle (cs : Word) (a : Addr) (v : Word) (s : State) : (setDeviceReg cs a v s).oracle = s.oracle := rfl
@[simp] theorem setDeviceReg_cmd0 (cs : Word) (a : Addr) (v : Word) (s : State) : (setDeviceReg cs a v s).cmd0 = s.cmd0 := rfl
@[simp] theorem setDeviceReg_cmd1 (cs : Word) (a : Addr) (v : Word) (s : State) : (setDeviceReg cs a v s).cmd1 = s.cmd1 := rfl
@[simp] theorem setDeviceReg_cmd2 (cs : Word) (a : Addr) (v : Word) (s : State) : (setDeviceReg cs a v s).cmd2 = s.cmd2 := rfl
@[simp] theorem setDeviceReg_status (cs : Word) (a : Addr) (v : Word) (s : State) : (setDeviceReg cs a v s).status = s.status := rfl
@[simp] theorem setDeviceReg_result (cs : Word) (a : Addr) (v : Word) (s : State) : (setDeviceReg cs a v s).result = s.result := rfl
@[simp] theorem setDeviceReg_allocCount (cs : Word) (a : Addr) (v : Word) (s : State) : (setDeviceReg cs a v s).allocCount = s.allocCount := rfl
@[simp] theorem setDeviceReg_phase (cs : Word) (a : Addr) (v : Word) (s : State) : (setDeviceReg cs a v s).phase = s.phase := rfl
@[simp] theorem setDeviceReg_cmd (cs : Word) (a : Addr) (v : Word) (s : State) : (setDeviceReg cs a v s).cmd = s.cmd := rfl
@[simp] theorem setDeviceReg_k (cs : Word) (a : Addr) (v : Word) (s : State) : (setDeviceReg cs a v s).k = s.k := rfl
@[simp] theorem setDeviceReg_rdata (cs : Word) (a : Addr) (v : Word) (s : State) : (setDeviceReg cs a v s).rdata = s.rdata := rfl
@[simp] theorem setDeviceReg_tgt (cs : Word) (a : Addr) (v : Word) (s : State) : (setDeviceReg cs a v s).tgt = s.tgt := rfl
@[simp] theorem setDeviceReg_chans (cs : Word) (a : Addr) (v : Word) (s : State) : (setDeviceReg cs a v s).chans = s.chans := rfl
@[simp] theorem setDeviceReg_bus (cs : Word) (a : Addr) (v : Word) (s : State) : (setDeviceReg cs a v s).bus = s.bus := rfl
@[simp] theorem setDeviceReg_history (cs : Word) (a : Addr) (v : Word) (s : State) : (setDeviceReg cs a v s).history = s.history := rfl
@[simp] theorem setDeviceReg_statusLog (cs : Word) (a : Addr) (v : Word) (s : State) : (setDeviceReg cs a v s).statusLog = s.statusLog := rfl
@[simp] theorem setDeviceReg_pends (cs : Word) (a : Addr) (v : Word) (s : State) : (setDeviceReg cs a v s).pends = s.pends := rfl
@[simp] theorem setDeviceReg_draws (cs : Word) (a : Addr) (v : Word) (s : State) : (setDeviceReg cs a v s).draws = s.draws := rfl
@[simp] theorem setDeviceReg_host (cs : Word) (a : Addr) (v : Word) (s : State) : (setDeviceReg cs a v s).host = s.host := rfl
@[simp] theorem setDeviceReg_hostLog (cs : Word) (a : Addr) (v : Word) (s : State) : (setDeviceReg cs a v s).hostLog = s.hostLog := rfl

/-! ### setDevicePend -/

@[simp] theorem setDevicePend_params (cs v : Word) (s : State) : (setDevicePend cs v s).params = s.params := rfl
@[simp] theorem setDevicePend_oracle (cs v : Word) (s : State) : (setDevicePend cs v s).oracle = s.oracle := rfl
@[simp] theorem setDevicePend_cmd0 (cs v : Word) (s : State) : (setDevicePend cs v s).cmd0 = s.cmd0 := rfl
@[simp] theorem setDevicePend_cmd1 (cs v : Word) (s : State) : (setDevicePend cs v s).cmd1 = s.cmd1 := rfl
@[simp] theorem setDevicePend_cmd2 (cs v : Word) (s : State) : (setDevicePend cs v s).cmd2 = s.cmd2 := rfl
@[simp] theorem setDevicePend_status (cs v : Word) (s : State) : (setDevicePend cs v s).status = s.status := rfl
@[simp] theorem setDevicePend_result (cs v : Word) (s : State) : (setDevicePend cs v s).result = s.result := rfl
@[simp] theorem setDevicePend_allocCount (cs v : Word) (s : State) : (setDevicePend cs v s).allocCount = s.allocCount := rfl
@[simp] theorem setDevicePend_phase (cs v : Word) (s : State) : (setDevicePend cs v s).phase = s.phase := rfl
@[simp] theorem setDevicePend_cmd (cs v : Word) (s : State) : (setDevicePend cs v s).cmd = s.cmd := rfl
@[simp] theorem setDevicePend_k (cs v : Word) (s : State) : (setDevicePend cs v s).k = s.k := rfl
@[simp] theorem setDevicePend_rdata (cs v : Word) (s : State) : (setDevicePend cs v s).rdata = s.rdata := rfl
@[simp] theorem setDevicePend_tgt (cs v : Word) (s : State) : (setDevicePend cs v s).tgt = s.tgt := rfl
@[simp] theorem setDevicePend_chans (cs v : Word) (s : State) : (setDevicePend cs v s).chans = s.chans := rfl
@[simp] theorem setDevicePend_bus (cs v : Word) (s : State) : (setDevicePend cs v s).bus = s.bus := rfl
@[simp] theorem setDevicePend_history (cs v : Word) (s : State) : (setDevicePend cs v s).history = s.history := rfl
@[simp] theorem setDevicePend_statusLog (cs v : Word) (s : State) : (setDevicePend cs v s).statusLog = s.statusLog := rfl
@[simp] theorem setDevicePend_regs (cs v : Word) (s : State) : (setDevicePend cs v s).regs = s.regs := rfl
@[simp] theorem setDevicePend_draws (cs v : Word) (s : State) : (setDevicePend cs v s).draws = s.draws := rfl
@[simp] theorem setDevicePend_host (cs v : Word) (s : State) : (setDevicePend cs v s).host = s.host := rfl
@[simp] theorem setDevicePend_hostLog (cs v : Word) (s : State) : (setDevicePend cs v s).hostLog = s.hostLog := rfl

/-! ### clearDevicePend -/

@[simp] theorem clearDevicePend_params (cs : Word) (s : State) : (clearDevicePend cs s).params = s.params := rfl
@[simp] theorem clearDevicePend_oracle (cs : Word) (s : State) : (clearDevicePend cs s).oracle = s.oracle := rfl
@[simp] theorem clearDevicePend_cmd0 (cs : Word) (s : State) : (clearDevicePend cs s).cmd0 = s.cmd0 := rfl
@[simp] theorem clearDevicePend_cmd1 (cs : Word) (s : State) : (clearDevicePend cs s).cmd1 = s.cmd1 := rfl
@[simp] theorem clearDevicePend_cmd2 (cs : Word) (s : State) : (clearDevicePend cs s).cmd2 = s.cmd2 := rfl
@[simp] theorem clearDevicePend_status (cs : Word) (s : State) : (clearDevicePend cs s).status = s.status := rfl
@[simp] theorem clearDevicePend_result (cs : Word) (s : State) : (clearDevicePend cs s).result = s.result := rfl
@[simp] theorem clearDevicePend_allocCount (cs : Word) (s : State) : (clearDevicePend cs s).allocCount = s.allocCount := rfl
@[simp] theorem clearDevicePend_phase (cs : Word) (s : State) : (clearDevicePend cs s).phase = s.phase := rfl
@[simp] theorem clearDevicePend_cmd (cs : Word) (s : State) : (clearDevicePend cs s).cmd = s.cmd := rfl
@[simp] theorem clearDevicePend_k (cs : Word) (s : State) : (clearDevicePend cs s).k = s.k := rfl
@[simp] theorem clearDevicePend_rdata (cs : Word) (s : State) : (clearDevicePend cs s).rdata = s.rdata := rfl
@[simp] theorem clearDevicePend_tgt (cs : Word) (s : State) : (clearDevicePend cs s).tgt = s.tgt := rfl
@[simp] theorem clearDevicePend_chans (cs : Word) (s : State) : (clearDevicePend cs s).chans = s.chans := rfl
@[simp] theorem clearDevicePend_bus (cs : Word) (s : State) : (clearDevicePend cs s).bus = s.bus := rfl
@[simp] theorem clearDevicePend_history (cs : Word) (s : State) : (clearDevicePend cs s).history = s.history := rfl
@[simp] theorem clearDevicePend_statusLog (cs : Word) (s : State) : (clearDevicePend cs s).statusLog = s.statusLog := rfl
@[simp] theorem clearDevicePend_regs (cs : Word) (s : State) : (clearDevicePend cs s).regs = s.regs := rfl
@[simp] theorem clearDevicePend_draws (cs : Word) (s : State) : (clearDevicePend cs s).draws = s.draws := rfl
@[simp] theorem clearDevicePend_host (cs : Word) (s : State) : (clearDevicePend cs s).host = s.host := rfl
@[simp] theorem clearDevicePend_hostLog (cs : Word) (s : State) : (clearDevicePend cs s).hostLog = s.hostLog := rfl

/-! ### setChan -/

@[simp] theorem setChan_params (h : Nat) (c : Channel) (s : State) : (setChan h c s).params = s.params := rfl
@[simp] theorem setChan_oracle (h : Nat) (c : Channel) (s : State) : (setChan h c s).oracle = s.oracle := rfl
@[simp] theorem setChan_cmd0 (h : Nat) (c : Channel) (s : State) : (setChan h c s).cmd0 = s.cmd0 := rfl
@[simp] theorem setChan_cmd1 (h : Nat) (c : Channel) (s : State) : (setChan h c s).cmd1 = s.cmd1 := rfl
@[simp] theorem setChan_cmd2 (h : Nat) (c : Channel) (s : State) : (setChan h c s).cmd2 = s.cmd2 := rfl
@[simp] theorem setChan_status (h : Nat) (c : Channel) (s : State) : (setChan h c s).status = s.status := rfl
@[simp] theorem setChan_result (h : Nat) (c : Channel) (s : State) : (setChan h c s).result = s.result := rfl
@[simp] theorem setChan_allocCount (h : Nat) (c : Channel) (s : State) : (setChan h c s).allocCount = s.allocCount := rfl
@[simp] theorem setChan_phase (h : Nat) (c : Channel) (s : State) : (setChan h c s).phase = s.phase := rfl
@[simp] theorem setChan_cmd (h : Nat) (c : Channel) (s : State) : (setChan h c s).cmd = s.cmd := rfl
@[simp] theorem setChan_k (h : Nat) (c : Channel) (s : State) : (setChan h c s).k = s.k := rfl
@[simp] theorem setChan_rdata (h : Nat) (c : Channel) (s : State) : (setChan h c s).rdata = s.rdata := rfl
@[simp] theorem setChan_tgt (h : Nat) (c : Channel) (s : State) : (setChan h c s).tgt = s.tgt := rfl
@[simp] theorem setChan_bus (h : Nat) (c : Channel) (s : State) : (setChan h c s).bus = s.bus := rfl
@[simp] theorem setChan_history (h : Nat) (c : Channel) (s : State) : (setChan h c s).history = s.history := rfl
@[simp] theorem setChan_statusLog (h : Nat) (c : Channel) (s : State) : (setChan h c s).statusLog = s.statusLog := rfl
@[simp] theorem setChan_regs (h : Nat) (c : Channel) (s : State) : (setChan h c s).regs = s.regs := rfl
@[simp] theorem setChan_pends (h : Nat) (c : Channel) (s : State) : (setChan h c s).pends = s.pends := rfl
@[simp] theorem setChan_draws (h : Nat) (c : Channel) (s : State) : (setChan h c s).draws = s.draws := rfl
@[simp] theorem setChan_host (h : Nat) (c : Channel) (s : State) : (setChan h c s).host = s.host := rfl
@[simp] theorem setChan_hostLog (h : Nat) (c : Channel) (s : State) : (setChan h c s).hostLog = s.hostLog := rfl

/-! ### setRamp -/

@[simp] theorem setRamp_params (h : Nat) (m : RampMode) (s : State) : (setRamp h m s).params = s.params := rfl
@[simp] theorem setRamp_oracle (h : Nat) (m : RampMode) (s : State) : (setRamp h m s).oracle = s.oracle := rfl
@[simp] theorem setRamp_cmd0 (h : Nat) (m : RampMode) (s : State) : (setRamp h m s).cmd0 = s.cmd0 := rfl
@[simp] theorem setRamp_cmd1 (h : Nat) (m : RampMode) (s : State) : (setRamp h m s).cmd1 = s.cmd1 := rfl
@[simp] theorem setRamp_cmd2 (h : Nat) (m : RampMode) (s : State) : (setRamp h m s).cmd2 = s.cmd2 := rfl
@[simp] theorem setRamp_status (h : Nat) (m : RampMode) (s : State) : (setRamp h m s).status = s.status := rfl
@[simp] theorem setRamp_result (h : Nat) (m : RampMode) (s : State) : (setRamp h m s).result = s.result := rfl
@[simp] theorem setRamp_allocCount (h : Nat) (m : RampMode) (s : State) : (setRamp h m s).allocCount = s.allocCount := rfl
@[simp] theorem setRamp_phase (h : Nat) (m : RampMode) (s : State) : (setRamp h m s).phase = s.phase := rfl
@[simp] theorem setRamp_cmd (h : Nat) (m : RampMode) (s : State) : (setRamp h m s).cmd = s.cmd := rfl
@[simp] theorem setRamp_k (h : Nat) (m : RampMode) (s : State) : (setRamp h m s).k = s.k := rfl
@[simp] theorem setRamp_rdata (h : Nat) (m : RampMode) (s : State) : (setRamp h m s).rdata = s.rdata := rfl
@[simp] theorem setRamp_tgt (h : Nat) (m : RampMode) (s : State) : (setRamp h m s).tgt = s.tgt := rfl
@[simp] theorem setRamp_bus (h : Nat) (m : RampMode) (s : State) : (setRamp h m s).bus = s.bus := rfl
@[simp] theorem setRamp_history (h : Nat) (m : RampMode) (s : State) : (setRamp h m s).history = s.history := rfl
@[simp] theorem setRamp_statusLog (h : Nat) (m : RampMode) (s : State) : (setRamp h m s).statusLog = s.statusLog := rfl
@[simp] theorem setRamp_regs (h : Nat) (m : RampMode) (s : State) : (setRamp h m s).regs = s.regs := rfl
@[simp] theorem setRamp_pends (h : Nat) (m : RampMode) (s : State) : (setRamp h m s).pends = s.pends := rfl
@[simp] theorem setRamp_draws (h : Nat) (m : RampMode) (s : State) : (setRamp h m s).draws = s.draws := rfl
@[simp] theorem setRamp_host (h : Nat) (m : RampMode) (s : State) : (setRamp h m s).host = s.host := rfl
@[simp] theorem setRamp_hostLog (h : Nat) (m : RampMode) (s : State) : (setRamp h m s).hostLog = s.hostLog := rfl

/-! ### setDir -/

@[simp] theorem setDir_params (h : Nat) (d : Direction) (s : State) : (setDir h d s).params = s.params := rfl
@[simp] theorem setDir_oracle (h : Nat) (d : Direction) (s : State) : (setDir h d s).oracle = s.oracle := rfl
@[simp] theorem setDir_cmd0 (h : Nat) (d : Direction) (s : State) : (setDir h d s).cmd0 = s.cmd0 := rfl
@[simp] theorem setDir_cmd1 (h : Nat) (d : Direction) (s : State) : (setDir h d s).cmd1 = s.cmd1 := rfl
@[simp] theorem setDir_cmd2 (h : Nat) (d : Direction) (s : State) : (setDir h d s).cmd2 = s.cmd2 := rfl
@[simp] theorem setDir_status (h : Nat) (d : Direction) (s : State) : (setDir h d s).status = s.status := rfl
@[simp] theorem setDir_result (h : Nat) (d : Direction) (s : State) : (setDir h d s).result = s.result := rfl
@[simp] theorem setDir_allocCount (h : Nat) (d : Direction) (s : State) : (setDir h d s).allocCount = s.allocCount := rfl
@[simp] theorem setDir_phase (h : Nat) (d : Direction) (s : State) : (setDir h d s).phase = s.phase := rfl
@[simp] theorem setDir_cmd (h : Nat) (d : Direction) (s : State) : (setDir h d s).cmd = s.cmd := rfl
@[simp] theorem setDir_k (h : Nat) (d : Direction) (s : State) : (setDir h d s).k = s.k := rfl
@[simp] theorem setDir_rdata (h : Nat) (d : Direction) (s : State) : (setDir h d s).rdata = s.rdata := rfl
@[simp] theorem setDir_tgt (h : Nat) (d : Direction) (s : State) : (setDir h d s).tgt = s.tgt := rfl
@[simp] theorem setDir_bus (h : Nat) (d : Direction) (s : State) : (setDir h d s).bus = s.bus := rfl
@[simp] theorem setDir_history (h : Nat) (d : Direction) (s : State) : (setDir h d s).history = s.history := rfl
@[simp] theorem setDir_statusLog (h : Nat) (d : Direction) (s : State) : (setDir h d s).statusLog = s.statusLog := rfl
@[simp] theorem setDir_regs (h : Nat) (d : Direction) (s : State) : (setDir h d s).regs = s.regs := rfl
@[simp] theorem setDir_pends (h : Nat) (d : Direction) (s : State) : (setDir h d s).pends = s.pends := rfl
@[simp] theorem setDir_draws (h : Nat) (d : Direction) (s : State) : (setDir h d s).draws = s.draws := rfl
@[simp] theorem setDir_host (h : Nat) (d : Direction) (s : State) : (setDir h d s).host = s.host := rfl
@[simp] theorem setDir_hostLog (h : Nat) (d : Direction) (s : State) : (setDir h d s).hostLog = s.hostLog := rfl

/-! ### setVmax -/

@[simp] theorem setVmax_params (h : Nat) (v : Word) (s : State) : (setVmax h v s).params = s.params := rfl
@[simp] theorem setVmax_oracle (h : Nat) (v : Word) (s : State) : (setVmax h v s).oracle = s.oracle := rfl
@[simp] theorem setVmax_cmd0 (h : Nat) (v : Word) (s : State) : (setVmax h v s).cmd0 = s.cmd0 := rfl
@[simp] theorem setVmax_cmd1 (h : Nat) (v : Word) (s : State) : (setVmax h v s).cmd1 = s.cmd1 := rfl
@[simp] theorem setVmax_cmd2 (h : Nat) (v : Word) (s : State) : (setVmax h v s).cmd2 = s.cmd2 := rfl
@[simp] theorem setVmax_status (h : Nat) (v : Word) (s : State) : (setVmax h v s).status = s.status := rfl
@[simp] theorem setVmax_result (h : Nat) (v : Word) (s : State) : (setVmax h v s).result = s.result := rfl
@[simp] theorem setVmax_allocCount (h : Nat) (v : Word) (s : State) : (setVmax h v s).allocCount = s.allocCount := rfl
@[simp] theorem setVmax_phase (h : Nat) (v : Word) (s : State) : (setVmax h v s).phase = s.phase := rfl
@[simp] theorem setVmax_cmd (h : Nat) (v : Word) (s : State) : (setVmax h v s).cmd = s.cmd := rfl
@[simp] theorem setVmax_k (h : Nat) (v : Word) (s : State) : (setVmax h v s).k = s.k := rfl
@[simp] theorem setVmax_rdata (h : Nat) (v : Word) (s : State) : (setVmax h v s).rdata = s.rdata := rfl
@[simp] theorem setVmax_tgt (h : Nat) (v : Word) (s : State) : (setVmax h v s).tgt = s.tgt := rfl
@[simp] theorem setVmax_bus (h : Nat) (v : Word) (s : State) : (setVmax h v s).bus = s.bus := rfl
@[simp] theorem setVmax_history (h : Nat) (v : Word) (s : State) : (setVmax h v s).history = s.history := rfl
@[simp] theorem setVmax_statusLog (h : Nat) (v : Word) (s : State) : (setVmax h v s).statusLog = s.statusLog := rfl
@[simp] theorem setVmax_regs (h : Nat) (v : Word) (s : State) : (setVmax h v s).regs = s.regs := rfl
@[simp] theorem setVmax_pends (h : Nat) (v : Word) (s : State) : (setVmax h v s).pends = s.pends := rfl
@[simp] theorem setVmax_draws (h : Nat) (v : Word) (s : State) : (setVmax h v s).draws = s.draws := rfl
@[simp] theorem setVmax_host (h : Nat) (v : Word) (s : State) : (setVmax h v s).host = s.host := rfl
@[simp] theorem setVmax_hostLog (h : Nat) (v : Word) (s : State) : (setVmax h v s).hostLog = s.hostLog := rfl

/-! ### finish -/

@[simp] theorem finish_params (c : StatusCode) (d : BitVec 4) (s : State) : (finish c d s).params = s.params := rfl
@[simp] theorem finish_oracle (c : StatusCode) (d : BitVec 4) (s : State) : (finish c d s).oracle = s.oracle := rfl
@[simp] theorem finish_cmd0 (c : StatusCode) (d : BitVec 4) (s : State) : (finish c d s).cmd0 = s.cmd0 := rfl
@[simp] theorem finish_cmd1 (c : StatusCode) (d : BitVec 4) (s : State) : (finish c d s).cmd1 = s.cmd1 := rfl
@[simp] theorem finish_cmd2 (c : StatusCode) (d : BitVec 4) (s : State) : (finish c d s).cmd2 = s.cmd2 := rfl
@[simp] theorem finish_result (c : StatusCode) (d : BitVec 4) (s : State) : (finish c d s).result = s.result := rfl
@[simp] theorem finish_allocCount (c : StatusCode) (d : BitVec 4) (s : State) : (finish c d s).allocCount = s.allocCount := rfl
@[simp] theorem finish_cmd (c : StatusCode) (d : BitVec 4) (s : State) : (finish c d s).cmd = s.cmd := rfl
@[simp] theorem finish_k (c : StatusCode) (d : BitVec 4) (s : State) : (finish c d s).k = s.k := rfl
@[simp] theorem finish_rdata (c : StatusCode) (d : BitVec 4) (s : State) : (finish c d s).rdata = s.rdata := rfl
@[simp] theorem finish_tgt (c : StatusCode) (d : BitVec 4) (s : State) : (finish c d s).tgt = s.tgt := rfl
@[simp] theorem finish_chans (c : StatusCode) (d : BitVec 4) (s : State) : (finish c d s).chans = s.chans := rfl
@[simp] theorem finish_bus (c : StatusCode) (d : BitVec 4) (s : State) : (finish c d s).bus = s.bus := rfl
@[simp] theorem finish_history (c : StatusCode) (d : BitVec 4) (s : State) : (finish c d s).history = s.history := rfl
@[simp] theorem finish_regs (c : StatusCode) (d : BitVec 4) (s : State) : (finish c d s).regs = s.regs := rfl
@[simp] theorem finish_pends (c : StatusCode) (d : BitVec 4) (s : State) : (finish c d s).pends = s.pends := rfl
@[simp] theorem finish_draws (c : StatusCode) (d : BitVec 4) (s : State) : (finish c d s).draws = s.draws := rfl
@[simp] theorem finish_host (c : StatusCode) (d : BitVec 4) (s : State) : (finish c d s).host = s.host := rfl
@[simp] theorem finish_hostLog (c : StatusCode) (d : BitVec 4) (s : State) : (finish c d s).hostLog = s.hostLog := rfl

/-! ### complete -/

@[simp] theorem complete_params (r : Word) (s : State) : (complete r s).params = s.params := rfl
@[simp] theorem complete_oracle (r : Word) (s : State) : (complete r s).oracle = s.oracle := rfl
@[simp] theorem complete_cmd0 (r : Word) (s : State) : (complete r s).cmd0 = s.cmd0 := rfl
@[simp] theorem complete_cmd1 (r : Word) (s : State) : (complete r s).cmd1 = s.cmd1 := rfl
@[simp] theorem complete_cmd2 (r : Word) (s : State) : (complete r s).cmd2 = s.cmd2 := rfl
@[simp] theorem complete_allocCount (r : Word) (s : State) : (complete r s).allocCount = s.allocCount := rfl
@[simp] theorem complete_cmd (r : Word) (s : State) : (complete r s).cmd = s.cmd := rfl
@[simp] theorem complete_k (r : Word) (s : State) : (complete r s).k = s.k := rfl
@[simp] theorem complete_rdata (r : Word) (s : State) : (complete r s).rdata = s.rdata := rfl
@[simp] theorem complete_tgt (r : Word) (s : State) : (complete r s).tgt = s.tgt := rfl
@[simp] theorem complete_chans (r : Word) (s : State) : (complete r s).chans = s.chans := rfl
@[simp] theorem complete_bus (r : Word) (s : State) : (complete r s).bus = s.bus := rfl
@[simp] theorem complete_history (r : Word) (s : State) : (complete r s).history = s.history := rfl
@[simp] theorem complete_regs (r : Word) (s : State) : (complete r s).regs = s.regs := rfl
@[simp] theorem complete_pends (r : Word) (s : State) : (complete r s).pends = s.pends := rfl
@[simp] theorem complete_draws (r : Word) (s : State) : (complete r s).draws = s.draws := rfl
@[simp] theorem complete_host (r : Word) (s : State) : (complete r s).host = s.host := rfl
@[simp] theorem complete_hostLog (r : Word) (s : State) : (complete r s).hostLog = s.hostLog := rfl

/-! ### raise -/

@[simp] theorem raise_params (c : StatusCode) (d : BitVec 4) (s : State) : (raise c d s).params = s.params := rfl
@[simp] theorem raise_oracle (c : StatusCode) (d : BitVec 4) (s : State) : (raise c d s).oracle = s.oracle := rfl
@[simp] theorem raise_cmd0 (c : StatusCode) (d : BitVec 4) (s : State) : (raise c d s).cmd0 = s.cmd0 := rfl
@[simp] theorem raise_cmd1 (c : StatusCode) (d : BitVec 4) (s : State) : (raise c d s).cmd1 = s.cmd1 := rfl
@[simp] theorem raise_cmd2 (c : StatusCode) (d : BitVec 4) (s : State) : (raise c d s).cmd2 = s.cmd2 := rfl
@[simp] theorem raise_allocCount (c : StatusCode) (d : BitVec 4) (s : State) : (raise c d s).allocCount = s.allocCount := rfl
@[simp] theorem raise_cmd (c : StatusCode) (d : BitVec 4) (s : State) : (raise c d s).cmd = s.cmd := rfl
@[simp] theorem raise_k (c : StatusCode) (d : BitVec 4) (s : State) : (raise c d s).k = s.k := rfl
@[simp] theorem raise_rdata (c : StatusCode) (d : BitVec 4) (s : State) : (raise c d s).rdata = s.rdata := rfl
@[simp] theorem raise_tgt (c : StatusCode) (d : BitVec 4) (s : State) : (raise c d s).tgt = s.tgt := rfl
@[simp] theorem raise_chans (c : StatusCode) (d : BitVec 4) (s : State) : (raise c d s).chans = s.chans := rfl
@[simp] theorem raise_bus (c : StatusCode) (d : BitVec 4) (s : State) : (raise c d s).bus = s.bus := rfl
@[simp] theorem raise_history (c : StatusCode) (d : BitVec 4) (s : State) : (raise c d s).history = s.history := rfl
@[simp] theorem raise_regs (c : StatusCode) (d : BitVec 4) (s : State) : (raise c d s).regs = s.regs := rfl
@[simp] theorem raise_pends (c : StatusCode) (d : BitVec 4) (s : State) : (raise c d s).pends = s.pends := rfl
@[simp] theorem raise_draws (c : StatusCode) (d : BitVec 4) (s : State) : (raise c d s).draws = s.draws := rfl
@[simp] theorem raise_host (c : StatusCode) (d : BitVec 4) (s : State) : (raise c d s).host = s.host := rfl
@[simp] theorem raise_hostLog (c : StatusCode) (d : BitVec 4) (s : State) : (raise c d s).hostLog = s.hostLog := rfl

/-! ### raiseIllegal -/

@[simp] theorem raiseIllegal_params (r : Reject) (s : State) : (raiseIllegal r s).params = s.params := by cases r <;> rfl
@[simp] theorem raiseIllegal_oracle (r : Reject) (s : State) : (raiseIllegal r s).oracle = s.oracle := by cases r <;> rfl
@[simp] theorem raiseIllegal_cmd0 (r : Reject) (s : State) : (raiseIllegal r s).cmd0 = s.cmd0 := by cases r <;> rfl
@[simp] theorem raiseIllegal_cmd1 (r : Reject) (s : State) : (raiseIllegal r s).cmd1 = s.cmd1 := by cases r <;> rfl
@[simp] theorem raiseIllegal_cmd2 (r : Reject) (s : State) : (raiseIllegal r s).cmd2 = s.cmd2 := by cases r <;> rfl
@[simp] theorem raiseIllegal_allocCount (r : Reject) (s : State) : (raiseIllegal r s).allocCount = s.allocCount := by cases r <;> rfl
@[simp] theorem raiseIllegal_cmd (r : Reject) (s : State) : (raiseIllegal r s).cmd = s.cmd := by cases r <;> rfl
@[simp] theorem raiseIllegal_k (r : Reject) (s : State) : (raiseIllegal r s).k = s.k := by cases r <;> rfl
@[simp] theorem raiseIllegal_rdata (r : Reject) (s : State) : (raiseIllegal r s).rdata = s.rdata := by cases r <;> rfl
@[simp] theorem raiseIllegal_tgt (r : Reject) (s : State) : (raiseIllegal r s).tgt = s.tgt := by cases r <;> rfl
@[simp] theorem raiseIllegal_chans (r : Reject) (s : State) : (raiseIllegal r s).chans = s.chans := by cases r <;> rfl
@[simp] theorem raiseIllegal_bus (r : Reject) (s : State) : (raiseIllegal r s).bus = s.bus := by cases r <;> rfl
@[simp] theorem raiseIllegal_history (r : Reject) (s : State) : (raiseIllegal r s).history = s.history := by cases r <;> rfl
@[simp] theorem raiseIllegal_regs (r : Reject) (s : State) : (raiseIllegal r s).regs = s.regs := by cases r <;> rfl
@[simp] theorem raiseIllegal_pends (r : Reject) (s : State) : (raiseIllegal r s).pends = s.pends := by cases r <;> rfl
@[simp] theorem raiseIllegal_draws (r : Reject) (s : State) : (raiseIllegal r s).draws = s.draws := by cases r <;> rfl
@[simp] theorem raiseIllegal_host (r : Reject) (s : State) : (raiseIllegal r s).host = s.host := by cases r <;> rfl
@[simp] theorem raiseIllegal_hostLog (r : Reject) (s : State) : (raiseIllegal r s).hostLog = s.hostLog := by cases r <;> rfl

/-! ### deviceWrite -/

@[simp] theorem deviceWrite_params (cs : Word) (a : Addr) (v : Word) (s : State) : (deviceWrite cs a v s).params = s.params := by unfold deviceWrite; split <;> rfl
@[simp] theorem deviceWrite_oracle (cs : Word) (a : Addr) (v : Word) (s : State) : (deviceWrite cs a v s).oracle = s.oracle := by unfold deviceWrite; split <;> rfl
@[simp] theorem deviceWrite_cmd0 (cs : Word) (a : Addr) (v : Word) (s : State) : (deviceWrite cs a v s).cmd0 = s.cmd0 := by unfold deviceWrite; split <;> rfl
@[simp] theorem deviceWrite_cmd1 (cs : Word) (a : Addr) (v : Word) (s : State) : (deviceWrite cs a v s).cmd1 = s.cmd1 := by unfold deviceWrite; split <;> rfl
@[simp] theorem deviceWrite_cmd2 (cs : Word) (a : Addr) (v : Word) (s : State) : (deviceWrite cs a v s).cmd2 = s.cmd2 := by unfold deviceWrite; split <;> rfl
@[simp] theorem deviceWrite_status (cs : Word) (a : Addr) (v : Word) (s : State) : (deviceWrite cs a v s).status = s.status := by unfold deviceWrite; split <;> rfl
@[simp] theorem deviceWrite_result (cs : Word) (a : Addr) (v : Word) (s : State) : (deviceWrite cs a v s).result = s.result := by unfold deviceWrite; split <;> rfl
@[simp] theorem deviceWrite_allocCount (cs : Word) (a : Addr) (v : Word) (s : State) : (deviceWrite cs a v s).allocCount = s.allocCount := by unfold deviceWrite; split <;> rfl
@[simp] theorem deviceWrite_phase (cs : Word) (a : Addr) (v : Word) (s : State) : (deviceWrite cs a v s).phase = s.phase := by unfold deviceWrite; split <;> rfl
@[simp] theorem deviceWrite_cmd (cs : Word) (a : Addr) (v : Word) (s : State) : (deviceWrite cs a v s).cmd = s.cmd := by unfold deviceWrite; split <;> rfl
@[simp] theorem deviceWrite_k (cs : Word) (a : Addr) (v : Word) (s : State) : (deviceWrite cs a v s).k = s.k := by unfold deviceWrite; split <;> rfl
@[simp] theorem deviceWrite_rdata (cs : Word) (a : Addr) (v : Word) (s : State) : (deviceWrite cs a v s).rdata = s.rdata := by unfold deviceWrite; split <;> rfl
@[simp] theorem deviceWrite_tgt (cs : Word) (a : Addr) (v : Word) (s : State) : (deviceWrite cs a v s).tgt = s.tgt := by unfold deviceWrite; split <;> rfl
@[simp] theorem deviceWrite_chans (cs : Word) (a : Addr) (v : Word) (s : State) : (deviceWrite cs a v s).chans = s.chans := by unfold deviceWrite; split <;> rfl
@[simp] theorem deviceWrite_bus (cs : Word) (a : Addr) (v : Word) (s : State) : (deviceWrite cs a v s).bus = s.bus := by unfold deviceWrite; split <;> rfl
@[simp] theorem deviceWrite_history (cs : Word) (a : Addr) (v : Word) (s : State) : (deviceWrite cs a v s).history = s.history := by unfold deviceWrite; split <;> rfl
@[simp] theorem deviceWrite_statusLog (cs : Word) (a : Addr) (v : Word) (s : State) : (deviceWrite cs a v s).statusLog = s.statusLog := by unfold deviceWrite; split <;> rfl
@[simp] theorem deviceWrite_draws (cs : Word) (a : Addr) (v : Word) (s : State) : (deviceWrite cs a v s).draws = s.draws := by unfold deviceWrite; split <;> rfl
@[simp] theorem deviceWrite_host (cs : Word) (a : Addr) (v : Word) (s : State) : (deviceWrite cs a v s).host = s.host := by unfold deviceWrite; split <;> rfl
@[simp] theorem deviceWrite_hostLog (cs : Word) (a : Addr) (v : Word) (s : State) : (deviceWrite cs a v s).hostLog = s.hostLog := by unfold deviceWrite; split <;> rfl

/-! ### deviceRead -/

@[simp] theorem deviceRead_params (cs : Word) (a : Addr) (s : State) : (deviceRead cs a s).params = s.params := rfl
@[simp] theorem deviceRead_oracle (cs : Word) (a : Addr) (s : State) : (deviceRead cs a s).oracle = s.oracle := rfl
@[simp] theorem deviceRead_cmd0 (cs : Word) (a : Addr) (s : State) : (deviceRead cs a s).cmd0 = s.cmd0 := rfl
@[simp] theorem deviceRead_cmd1 (cs : Word) (a : Addr) (s : State) : (deviceRead cs a s).cmd1 = s.cmd1 := rfl
@[simp] theorem deviceRead_cmd2 (cs : Word) (a : Addr) (s : State) : (deviceRead cs a s).cmd2 = s.cmd2 := rfl
@[simp] theorem deviceRead_status (cs : Word) (a : Addr) (s : State) : (deviceRead cs a s).status = s.status := rfl
@[simp] theorem deviceRead_result (cs : Word) (a : Addr) (s : State) : (deviceRead cs a s).result = s.result := rfl
@[simp] theorem deviceRead_allocCount (cs : Word) (a : Addr) (s : State) : (deviceRead cs a s).allocCount = s.allocCount := rfl
@[simp] theorem deviceRead_phase (cs : Word) (a : Addr) (s : State) : (deviceRead cs a s).phase = s.phase := rfl
@[simp] theorem deviceRead_cmd (cs : Word) (a : Addr) (s : State) : (deviceRead cs a s).cmd = s.cmd := rfl
@[simp] theorem deviceRead_k (cs : Word) (a : Addr) (s : State) : (deviceRead cs a s).k = s.k := rfl
@[simp] theorem deviceRead_rdata (cs : Word) (a : Addr) (s : State) : (deviceRead cs a s).rdata = s.rdata := rfl
@[simp] theorem deviceRead_tgt (cs : Word) (a : Addr) (s : State) : (deviceRead cs a s).tgt = s.tgt := rfl
@[simp] theorem deviceRead_chans (cs : Word) (a : Addr) (s : State) : (deviceRead cs a s).chans = s.chans := rfl
@[simp] theorem deviceRead_bus (cs : Word) (a : Addr) (s : State) : (deviceRead cs a s).bus = s.bus := rfl
@[simp] theorem deviceRead_history (cs : Word) (a : Addr) (s : State) : (deviceRead cs a s).history = s.history := rfl
@[simp] theorem deviceRead_statusLog (cs : Word) (a : Addr) (s : State) : (deviceRead cs a s).statusLog = s.statusLog := rfl
@[simp] theorem deviceRead_draws (cs : Word) (a : Addr) (s : State) : (deviceRead cs a s).draws = s.draws := rfl
@[simp] theorem deviceRead_host (cs : Word) (a : Addr) (s : State) : (deviceRead cs a s).host = s.host := rfl
@[simp] theorem deviceRead_hostLog (cs : Word) (a : Addr) (s : State) : (deviceRead cs a s).hostLog = s.hostLog := rfl

/-! ### deviceAct -/

@[simp] theorem deviceAct_params (cs : Word) (tx : Frame) (s : State) : (deviceAct cs tx s).params = s.params := by unfold deviceAct; split <;> simp
@[simp] theorem deviceAct_oracle (cs : Word) (tx : Frame) (s : State) : (deviceAct cs tx s).oracle = s.oracle := by unfold deviceAct; split <;> simp
@[simp] theorem deviceAct_cmd0 (cs : Word) (tx : Frame) (s : State) : (deviceAct cs tx s).cmd0 = s.cmd0 := by unfold deviceAct; split <;> simp
@[simp] theorem deviceAct_cmd1 (cs : Word) (tx : Frame) (s : State) : (deviceAct cs tx s).cmd1 = s.cmd1 := by unfold deviceAct; split <;> simp
@[simp] theorem deviceAct_cmd2 (cs : Word) (tx : Frame) (s : State) : (deviceAct cs tx s).cmd2 = s.cmd2 := by unfold deviceAct; split <;> simp
@[simp] theorem deviceAct_status (cs : Word) (tx : Frame) (s : State) : (deviceAct cs tx s).status = s.status := by unfold deviceAct; split <;> simp
@[simp] theorem deviceAct_result (cs : Word) (tx : Frame) (s : State) : (deviceAct cs tx s).result = s.result := by unfold deviceAct; split <;> simp
@[simp] theorem deviceAct_allocCount (cs : Word) (tx : Frame) (s : State) : (deviceAct cs tx s).allocCount = s.allocCount := by unfold deviceAct; split <;> simp
@[simp] theorem deviceAct_phase (cs : Word) (tx : Frame) (s : State) : (deviceAct cs tx s).phase = s.phase := by unfold deviceAct; split <;> simp
@[simp] theorem deviceAct_cmd (cs : Word) (tx : Frame) (s : State) : (deviceAct cs tx s).cmd = s.cmd := by unfold deviceAct; split <;> simp
@[simp] theorem deviceAct_k (cs : Word) (tx : Frame) (s : State) : (deviceAct cs tx s).k = s.k := by unfold deviceAct; split <;> simp
@[simp] theorem deviceAct_rdata (cs : Word) (tx : Frame) (s : State) : (deviceAct cs tx s).rdata = s.rdata := by unfold deviceAct; split <;> simp
@[simp] theorem deviceAct_tgt (cs : Word) (tx : Frame) (s : State) : (deviceAct cs tx s).tgt = s.tgt := by unfold deviceAct; split <;> simp
@[simp] theorem deviceAct_chans (cs : Word) (tx : Frame) (s : State) : (deviceAct cs tx s).chans = s.chans := by unfold deviceAct; split <;> simp
@[simp] theorem deviceAct_bus (cs : Word) (tx : Frame) (s : State) : (deviceAct cs tx s).bus = s.bus := by unfold deviceAct; split <;> simp
@[simp] theorem deviceAct_history (cs : Word) (tx : Frame) (s : State) : (deviceAct cs tx s).history = s.history := by unfold deviceAct; split <;> simp
@[simp] theorem deviceAct_statusLog (cs : Word) (tx : Frame) (s : State) : (deviceAct cs tx s).statusLog = s.statusLog := by unfold deviceAct; split <;> simp
@[simp] theorem deviceAct_draws (cs : Word) (tx : Frame) (s : State) : (deviceAct cs tx s).draws = s.draws := by unfold deviceAct; split <;> simp
@[simp] theorem deviceAct_host (cs : Word) (tx : Frame) (s : State) : (deviceAct cs tx s).host = s.host := by unfold deviceAct; split <;> simp
@[simp] theorem deviceAct_hostLog (cs : Word) (tx : Frame) (s : State) : (deviceAct cs tx s).hostLog = s.hostLog := by unfold deviceAct; split <;> simp

/-! ### assertSelect -/

@[simp] theorem assertSelect_params (h : Nat) (tx : Frame) (s : State) : (assertSelect h tx s).params = s.params := rfl
@[simp] theorem assertSelect_oracle (h : Nat) (tx : Frame) (s : State) : (assertSelect h tx s).oracle = s.oracle := rfl
@[simp] theorem assertSelect_cmd0 (h : Nat) (tx : Frame) (s : State) : (assertSelect h tx s).cmd0 = s.cmd0 := rfl
@[simp] theorem assertSelect_cmd1 (h : Nat) (tx : Frame) (s : State) : (assertSelect h tx s).cmd1 = s.cmd1 := rfl
@[simp] theorem assertSelect_cmd2 (h : Nat) (tx : Frame) (s : State) : (assertSelect h tx s).cmd2 = s.cmd2 := rfl
@[simp] theorem assertSelect_status (h : Nat) (tx : Frame) (s : State) : (assertSelect h tx s).status = s.status := rfl
@[simp] theorem assertSelect_result (h : Nat) (tx : Frame) (s : State) : (assertSelect h tx s).result = s.result := rfl
@[simp] theorem assertSelect_allocCount (h : Nat) (tx : Frame) (s : State) : (assertSelect h tx s).allocCount = s.allocCount := rfl
@[simp] theorem assertSelect_phase (h : Nat) (tx : Frame) (s : State) : (assertSelect h tx s).phase = s.phase := rfl
@[simp] theorem assertSelect_cmd (h : Nat) (tx : Frame) (s : State) : (assertSelect h tx s).cmd = s.cmd := rfl
@[simp] theorem assertSelect_k (h : Nat) (tx : Frame) (s : State) : (assertSelect h tx s).k = s.k := rfl
@[simp] theorem assertSelect_rdata (h : Nat) (tx : Frame) (s : State) : (assertSelect h tx s).rdata = s.rdata := rfl
@[simp] theorem assertSelect_tgt (h : Nat) (tx : Frame) (s : State) : (assertSelect h tx s).tgt = s.tgt := rfl
@[simp] theorem assertSelect_chans (h : Nat) (tx : Frame) (s : State) : (assertSelect h tx s).chans = s.chans := rfl
@[simp] theorem assertSelect_history (h : Nat) (tx : Frame) (s : State) : (assertSelect h tx s).history = s.history := rfl
@[simp] theorem assertSelect_statusLog (h : Nat) (tx : Frame) (s : State) : (assertSelect h tx s).statusLog = s.statusLog := rfl
@[simp] theorem assertSelect_regs (h : Nat) (tx : Frame) (s : State) : (assertSelect h tx s).regs = s.regs := rfl
@[simp] theorem assertSelect_pends (h : Nat) (tx : Frame) (s : State) : (assertSelect h tx s).pends = s.pends := rfl
@[simp] theorem assertSelect_draws (h : Nat) (tx : Frame) (s : State) : (assertSelect h tx s).draws = s.draws := rfl
@[simp] theorem assertSelect_host (h : Nat) (tx : Frame) (s : State) : (assertSelect h tx s).host = s.host := rfl
@[simp] theorem assertSelect_hostLog (h : Nat) (tx : Frame) (s : State) : (assertSelect h tx s).hostLog = s.hostLog := rfl

/-! ### endExchange -/

@[simp] theorem endExchange_params (tx rx : Frame) (s : State) : (endExchange tx rx s).params = s.params := rfl
@[simp] theorem endExchange_oracle (tx rx : Frame) (s : State) : (endExchange tx rx s).oracle = s.oracle := rfl
@[simp] theorem endExchange_cmd0 (tx rx : Frame) (s : State) : (endExchange tx rx s).cmd0 = s.cmd0 := rfl
@[simp] theorem endExchange_cmd1 (tx rx : Frame) (s : State) : (endExchange tx rx s).cmd1 = s.cmd1 := rfl
@[simp] theorem endExchange_cmd2 (tx rx : Frame) (s : State) : (endExchange tx rx s).cmd2 = s.cmd2 := rfl
@[simp] theorem endExchange_status (tx rx : Frame) (s : State) : (endExchange tx rx s).status = s.status := rfl
@[simp] theorem endExchange_result (tx rx : Frame) (s : State) : (endExchange tx rx s).result = s.result := rfl
@[simp] theorem endExchange_allocCount (tx rx : Frame) (s : State) : (endExchange tx rx s).allocCount = s.allocCount := rfl
@[simp] theorem endExchange_phase (tx rx : Frame) (s : State) : (endExchange tx rx s).phase = s.phase := rfl
@[simp] theorem endExchange_cmd (tx rx : Frame) (s : State) : (endExchange tx rx s).cmd = s.cmd := rfl
@[simp] theorem endExchange_rdata (tx rx : Frame) (s : State) : (endExchange tx rx s).rdata = s.rdata := rfl
@[simp] theorem endExchange_tgt (tx rx : Frame) (s : State) : (endExchange tx rx s).tgt = s.tgt := rfl
@[simp] theorem endExchange_chans (tx rx : Frame) (s : State) : (endExchange tx rx s).chans = s.chans := rfl
@[simp] theorem endExchange_statusLog (tx rx : Frame) (s : State) : (endExchange tx rx s).statusLog = s.statusLog := rfl
@[simp] theorem endExchange_regs (tx rx : Frame) (s : State) : (endExchange tx rx s).regs = s.regs := rfl
@[simp] theorem endExchange_pends (tx rx : Frame) (s : State) : (endExchange tx rx s).pends = s.pends := rfl
@[simp] theorem endExchange_host (tx rx : Frame) (s : State) : (endExchange tx rx s).host = s.host := rfl
@[simp] theorem endExchange_hostLog (tx rx : Frame) (s : State) : (endExchange tx rx s).hostLog = s.hostLog := rfl

/-! ### answer -/

@[simp] theorem answer_params (tx : Frame) (s : State) : (answer tx s).params = s.params := by simp [answer]
@[simp] theorem answer_oracle (tx : Frame) (s : State) : (answer tx s).oracle = s.oracle := by simp [answer]
@[simp] theorem answer_cmd0 (tx : Frame) (s : State) : (answer tx s).cmd0 = s.cmd0 := by simp [answer]
@[simp] theorem answer_cmd1 (tx : Frame) (s : State) : (answer tx s).cmd1 = s.cmd1 := by simp [answer]
@[simp] theorem answer_cmd2 (tx : Frame) (s : State) : (answer tx s).cmd2 = s.cmd2 := by simp [answer]
@[simp] theorem answer_status (tx : Frame) (s : State) : (answer tx s).status = s.status := by simp [answer]
@[simp] theorem answer_result (tx : Frame) (s : State) : (answer tx s).result = s.result := by simp [answer]
@[simp] theorem answer_allocCount (tx : Frame) (s : State) : (answer tx s).allocCount = s.allocCount := by simp [answer]
@[simp] theorem answer_phase (tx : Frame) (s : State) : (answer tx s).phase = s.phase := by simp [answer]
@[simp] theorem answer_cmd (tx : Frame) (s : State) : (answer tx s).cmd = s.cmd := by simp [answer]
@[simp] theorem answer_rdata (tx : Frame) (s : State) : (answer tx s).rdata = s.rdata := by simp [answer]
@[simp] theorem answer_tgt (tx : Frame) (s : State) : (answer tx s).tgt = s.tgt := by simp [answer]
@[simp] theorem answer_chans (tx : Frame) (s : State) : (answer tx s).chans = s.chans := by simp [answer]
@[simp] theorem answer_statusLog (tx : Frame) (s : State) : (answer tx s).statusLog = s.statusLog := by simp [answer]
@[simp] theorem answer_host (tx : Frame) (s : State) : (answer tx s).host = s.host := by simp [answer]
@[simp] theorem answer_hostLog (tx : Frame) (s : State) : (answer tx s).hostLog = s.hostLog := by simp [answer]

/-! ### exchange -/

@[simp] theorem exchange_params (h : Nat) (tx : Frame) (s : State) : (exchange h tx s).params = s.params := by simp [exchange]
@[simp] theorem exchange_oracle (h : Nat) (tx : Frame) (s : State) : (exchange h tx s).oracle = s.oracle := by simp [exchange]
@[simp] theorem exchange_cmd0 (h : Nat) (tx : Frame) (s : State) : (exchange h tx s).cmd0 = s.cmd0 := by simp [exchange]
@[simp] theorem exchange_cmd1 (h : Nat) (tx : Frame) (s : State) : (exchange h tx s).cmd1 = s.cmd1 := by simp [exchange]
@[simp] theorem exchange_cmd2 (h : Nat) (tx : Frame) (s : State) : (exchange h tx s).cmd2 = s.cmd2 := by simp [exchange]
@[simp] theorem exchange_status (h : Nat) (tx : Frame) (s : State) : (exchange h tx s).status = s.status := by simp [exchange]
@[simp] theorem exchange_result (h : Nat) (tx : Frame) (s : State) : (exchange h tx s).result = s.result := by simp [exchange]
@[simp] theorem exchange_allocCount (h : Nat) (tx : Frame) (s : State) : (exchange h tx s).allocCount = s.allocCount := by simp [exchange]
@[simp] theorem exchange_phase (h : Nat) (tx : Frame) (s : State) : (exchange h tx s).phase = s.phase := by simp [exchange]
@[simp] theorem exchange_cmd (h : Nat) (tx : Frame) (s : State) : (exchange h tx s).cmd = s.cmd := by simp [exchange]
@[simp] theorem exchange_rdata (h : Nat) (tx : Frame) (s : State) : (exchange h tx s).rdata = s.rdata := by simp [exchange]
@[simp] theorem exchange_tgt (h : Nat) (tx : Frame) (s : State) : (exchange h tx s).tgt = s.tgt := by simp [exchange]
@[simp] theorem exchange_chans (h : Nat) (tx : Frame) (s : State) : (exchange h tx s).chans = s.chans := by simp [exchange]
@[simp] theorem exchange_statusLog (h : Nat) (tx : Frame) (s : State) : (exchange h tx s).statusLog = s.statusLog := by simp [exchange]
@[simp] theorem exchange_host (h : Nat) (tx : Frame) (s : State) : (exchange h tx s).host = s.host := by simp [exchange]
@[simp] theorem exchange_hostLog (h : Nat) (tx : Frame) (s : State) : (exchange h tx s).hostLog = s.hostLog := by simp [exchange]

/-! ### flagAccess -/

@[simp] theorem flagAccess_params (a : Addr) (dir : AccessDir) (s : State) : (flagAccess a dir s).params = s.params := by unfold flagAccess; split <;> rfl
@[simp] theorem flagAccess_oracle (a : Addr) (dir : AccessDir) (s : State) : (flagAccess a dir s).oracle = s.oracle := by unfold flagAccess; split <;> rfl
@[simp] theorem flagAccess_cmd0 (a : Addr) (dir : AccessDir) (s : State) : (flagAccess a dir s).cmd0 = s.cmd0 := by unfold flagAccess; split <;> rfl
@[simp] theorem flagAccess_cmd1 (a : Addr) (dir : AccessDir) (s : State) : (flagAccess a dir s).cmd1 = s.cmd1 := by unfold flagAccess; split <;> rfl
@[simp] theorem flagAccess_cmd2 (a : Addr) (dir : AccessDir) (s : State) : (flagAccess a dir s).cmd2 = s.cmd2 := by unfold flagAccess; split <;> rfl
@[simp] theorem flagAccess_result (a : Addr) (dir : AccessDir) (s : State) : (flagAccess a dir s).result = s.result := by unfold flagAccess; split <;> rfl
@[simp] theorem flagAccess_allocCount (a : Addr) (dir : AccessDir) (s : State) : (flagAccess a dir s).allocCount = s.allocCount := by unfold flagAccess; split <;> rfl
@[simp] theorem flagAccess_phase (a : Addr) (dir : AccessDir) (s : State) : (flagAccess a dir s).phase = s.phase := by unfold flagAccess; split <;> rfl
@[simp] theorem flagAccess_cmd (a : Addr) (dir : AccessDir) (s : State) : (flagAccess a dir s).cmd = s.cmd := by unfold flagAccess; split <;> rfl
@[simp] theorem flagAccess_k (a : Addr) (dir : AccessDir) (s : State) : (flagAccess a dir s).k = s.k := by unfold flagAccess; split <;> rfl
@[simp] theorem flagAccess_rdata (a : Addr) (dir : AccessDir) (s : State) : (flagAccess a dir s).rdata = s.rdata := by unfold flagAccess; split <;> rfl
@[simp] theorem flagAccess_tgt (a : Addr) (dir : AccessDir) (s : State) : (flagAccess a dir s).tgt = s.tgt := by unfold flagAccess; split <;> rfl
@[simp] theorem flagAccess_chans (a : Addr) (dir : AccessDir) (s : State) : (flagAccess a dir s).chans = s.chans := by unfold flagAccess; split <;> rfl
@[simp] theorem flagAccess_bus (a : Addr) (dir : AccessDir) (s : State) : (flagAccess a dir s).bus = s.bus := by unfold flagAccess; split <;> rfl
@[simp] theorem flagAccess_history (a : Addr) (dir : AccessDir) (s : State) : (flagAccess a dir s).history = s.history := by unfold flagAccess; split <;> rfl
@[simp] theorem flagAccess_statusLog (a : Addr) (dir : AccessDir) (s : State) : (flagAccess a dir s).statusLog = s.statusLog := by unfold flagAccess; split <;> rfl
@[simp] theorem flagAccess_regs (a : Addr) (dir : AccessDir) (s : State) : (flagAccess a dir s).regs = s.regs := by unfold flagAccess; split <;> rfl
@[simp] theorem flagAccess_pends (a : Addr) (dir : AccessDir) (s : State) : (flagAccess a dir s).pends = s.pends := by unfold flagAccess; split <;> rfl
@[simp] theorem flagAccess_draws (a : Addr) (dir : AccessDir) (s : State) : (flagAccess a dir s).draws = s.draws := by unfold flagAccess; split <;> rfl
@[simp] theorem flagAccess_host (a : Addr) (dir : AccessDir) (s : State) : (flagAccess a dir s).host = s.host := by unfold flagAccess; split <;> rfl
@[simp] theorem flagAccess_hostLog (a : Addr) (dir : AccessDir) (s : State) : (flagAccess a dir s).hostLog = s.hostLog := by unfold flagAccess; split <;> rfl

/-! ### writeReg -/

@[simp] theorem writeReg_params (h : Nat) (a : Addr) (v : Word) (s : State) : (writeReg h a v s).params = s.params := by simp [writeReg]
@[simp] theorem writeReg_oracle (h : Nat) (a : Addr) (v : Word) (s : State) : (writeReg h a v s).oracle = s.oracle := by simp [writeReg]
@[simp] theorem writeReg_cmd0 (h : Nat) (a : Addr) (v : Word) (s : State) : (writeReg h a v s).cmd0 = s.cmd0 := by simp [writeReg]
@[simp] theorem writeReg_cmd1 (h : Nat) (a : Addr) (v : Word) (s : State) : (writeReg h a v s).cmd1 = s.cmd1 := by simp [writeReg]
@[simp] theorem writeReg_cmd2 (h : Nat) (a : Addr) (v : Word) (s : State) : (writeReg h a v s).cmd2 = s.cmd2 := by simp [writeReg]
@[simp] theorem writeReg_result (h : Nat) (a : Addr) (v : Word) (s : State) : (writeReg h a v s).result = s.result := by simp [writeReg]
@[simp] theorem writeReg_allocCount (h : Nat) (a : Addr) (v : Word) (s : State) : (writeReg h a v s).allocCount = s.allocCount := by simp [writeReg]
@[simp] theorem writeReg_phase (h : Nat) (a : Addr) (v : Word) (s : State) : (writeReg h a v s).phase = s.phase := by simp [writeReg]
@[simp] theorem writeReg_cmd (h : Nat) (a : Addr) (v : Word) (s : State) : (writeReg h a v s).cmd = s.cmd := by simp [writeReg]
@[simp] theorem writeReg_rdata (h : Nat) (a : Addr) (v : Word) (s : State) : (writeReg h a v s).rdata = s.rdata := by simp [writeReg]
@[simp] theorem writeReg_tgt (h : Nat) (a : Addr) (v : Word) (s : State) : (writeReg h a v s).tgt = s.tgt := by simp [writeReg]
@[simp] theorem writeReg_chans (h : Nat) (a : Addr) (v : Word) (s : State) : (writeReg h a v s).chans = s.chans := by simp [writeReg]
@[simp] theorem writeReg_statusLog (h : Nat) (a : Addr) (v : Word) (s : State) : (writeReg h a v s).statusLog = s.statusLog := by simp [writeReg]
@[simp] theorem writeReg_host (h : Nat) (a : Addr) (v : Word) (s : State) : (writeReg h a v s).host = s.host := by simp [writeReg]
@[simp] theorem writeReg_hostLog (h : Nat) (a : Addr) (v : Word) (s : State) : (writeReg h a v s).hostLog = s.hostLog := by simp [writeReg]

/-! ### latchRead -/

@[simp] theorem latchRead_params (s : State) : (latchRead s).params = s.params := rfl
@[simp] theorem latchRead_oracle (s : State) : (latchRead s).oracle = s.oracle := rfl
@[simp] theorem latchRead_cmd0 (s : State) : (latchRead s).cmd0 = s.cmd0 := rfl
@[simp] theorem latchRead_cmd1 (s : State) : (latchRead s).cmd1 = s.cmd1 := rfl
@[simp] theorem latchRead_cmd2 (s : State) : (latchRead s).cmd2 = s.cmd2 := rfl
@[simp] theorem latchRead_status (s : State) : (latchRead s).status = s.status := rfl
@[simp] theorem latchRead_result (s : State) : (latchRead s).result = s.result := rfl
@[simp] theorem latchRead_allocCount (s : State) : (latchRead s).allocCount = s.allocCount := rfl
@[simp] theorem latchRead_phase (s : State) : (latchRead s).phase = s.phase := rfl
@[simp] theorem latchRead_cmd (s : State) : (latchRead s).cmd = s.cmd := rfl
@[simp] theorem latchRead_k (s : State) : (latchRead s).k = s.k := rfl
@[simp] theorem latchRead_tgt (s : State) : (latchRead s).tgt = s.tgt := rfl
@[simp] theorem latchRead_chans (s : State) : (latchRead s).chans = s.chans := rfl
@[simp] theorem latchRead_bus (s : State) : (latchRead s).bus = s.bus := rfl
@[simp] theorem latchRead_history (s : State) : (latchRead s).history = s.history := rfl
@[simp] theorem latchRead_statusLog (s : State) : (latchRead s).statusLog = s.statusLog := rfl
@[simp] theorem latchRead_regs (s : State) : (latchRead s).regs = s.regs := rfl
@[simp] theorem latchRead_pends (s : State) : (latchRead s).pends = s.pends := rfl
@[simp] theorem latchRead_draws (s : State) : (latchRead s).draws = s.draws := rfl
@[simp] theorem latchRead_host (s : State) : (latchRead s).host = s.host := rfl
@[simp] theorem latchRead_hostLog (s : State) : (latchRead s).hostLog = s.hostLog := rfl

/-! ### readReg -/

@[simp] theorem readReg_params (h : Nat) (a : Addr) (s : State) : (readReg h a s).params = s.params := by simp [readReg]
@[simp] theorem readReg_oracle (h : Nat) (a : Addr) (s : State) : (readReg h a s).oracle = s.oracle := by simp [readReg]
@[simp] theorem readReg_cmd0 (h : Nat) (a : Addr) (s : State) : (readReg h a s).cmd0 = s.cmd0 := by simp [readReg]
@[simp] theorem readReg_cmd1 (h : Nat) (a : Addr) (s : State) : (readReg h a s).cmd1 = s.cmd1 := by simp [readReg]
@[simp] theorem readReg_cmd2 (h : Nat) (a : Addr) (s : State) : (readReg h a s).cmd2 = s.cmd2 := by simp [readReg]
@[simp] theorem readReg_result (h : Nat) (a : Addr) (s : State) : (readReg h a s).result = s.result := by simp [readReg]
@[simp] theorem readReg_allocCount (h : Nat) (a : Addr) (s : State) : (readReg h a s).allocCount = s.allocCount := by simp [readReg]
@[simp] theorem readReg_phase (h : Nat) (a : Addr) (s : State) : (readReg h a s).phase = s.phase := by simp [readReg]
@[simp] theorem readReg_cmd (h : Nat) (a : Addr) (s : State) : (readReg h a s).cmd = s.cmd := by simp [readReg]
@[simp] theorem readReg_tgt (h : Nat) (a : Addr) (s : State) : (readReg h a s).tgt = s.tgt := by simp [readReg]
@[simp] theorem readReg_chans (h : Nat) (a : Addr) (s : State) : (readReg h a s).chans = s.chans := by simp [readReg]
@[simp] theorem readReg_statusLog (h : Nat) (a : Addr) (s : State) : (readReg h a s).statusLog = s.statusLog := by simp [readReg]
@[simp] theorem readReg_host (h : Nat) (a : Addr) (s : State) : (readReg h a s).host = s.host := by simp [readReg]
@[simp] theorem readReg_hostLog (h : Nat) (a : Addr) (s : State) : (readReg h a s).hostLog = s.hostLog := by simp [readReg]

/-! ### setRampMode -/

@[simp] theorem setRampMode_params (h : Nat) (m : RampMode) (s : State) : (setRampMode h m s).params = s.params := by simp [setRampMode]
@[simp] theorem setRampMode_oracle (h : Nat) (m : RampMode) (s : State) : (setRampMode h m s).oracle = s.oracle := by simp [setRampMode]
@[simp] theorem setRampMode_cmd0 (h : Nat) (m : RampMode) (s : State) : (setRampMode h m s).cmd0 = s.cmd0 := by simp [setRampMode]
@[simp] theorem setRampMode_cmd1 (h : Nat) (m : RampMode) (s : State) : (setRampMode h m s).cmd1 = s.cmd1 := by simp [setRampMode]
@[simp] theorem setRampMode_cmd2 (h : Nat) (m : RampMode) (s : State) : (setRampMode h m s).cmd2 = s.cmd2 := by simp [setRampMode]
@[simp] theorem setRampMode_result (h : Nat) (m : RampMode) (s : State) : (setRampMode h m s).result = s.result := by simp [setRampMode]
@[simp] theorem setRampMode_allocCount (h : Nat) (m : RampMode) (s : State) : (setRampMode h m s).allocCount = s.allocCount := by simp [setRampMode]
@[simp] theorem setRampMode_phase (h : Nat) (m : RampMode) (s : State) : (setRampMode h m s).phase = s.phase := by simp [setRampMode]
@[simp] theorem setRampMode_cmd (h : Nat) (m : RampMode) (s : State) : (setRampMode h m s).cmd = s.cmd := by simp [setRampMode]
@[simp] theorem setRampMode_rdata (h : Nat) (m : RampMode) (s : State) : (setRampMode h m s).rdata = s.rdata := by simp [setRampMode]
@[simp] theorem setRampMode_tgt (h : Nat) (m : RampMode) (s : State) : (setRampMode h m s).tgt = s.tgt := by simp [setRampMode]
@[simp] theorem setRampMode_statusLog (h : Nat) (m : RampMode) (s : State) : (setRampMode h m s).statusLog = s.statusLog := by simp [setRampMode]
@[simp] theorem setRampMode_host (h : Nat) (m : RampMode) (s : State) : (setRampMode h m s).host = s.host := by simp [setRampMode]
@[simp] theorem setRampMode_hostLog (h : Nat) (m : RampMode) (s : State) : (setRampMode h m s).hostLog = s.hostLog := by simp [setRampMode]

/-! ### moveToBody -/

@[simp] theorem moveToBody_params (h : Nat) (pos vel : Word) (s : State) : (moveToBody h pos vel s).params = s.params := by simp [moveToBody]
@[simp] theorem moveToBody_oracle (h : Nat) (pos vel : Word) (s : State) : (moveToBody h pos vel s).oracle = s.oracle := by simp [moveToBody]
@[simp] theorem moveToBody_cmd0 (h : Nat) (pos vel : Word) (s : State) : (moveToBody h pos vel s).cmd0 = s.cmd0 := by simp [moveToBody]
@[simp] theorem moveToBody_cmd1 (h : Nat) (pos vel : Word) (s : State) : (moveToBody h pos vel s).cmd1 = s.cmd1 := by simp [moveToBody]
@[simp] theorem moveToBody_cmd2 (h : Nat) (pos vel : Word) (s : State) : (moveToBody h pos vel s).cmd2 = s.cmd2 := by simp [moveToBody]
@[simp] theorem moveToBody_result (h : Nat) (pos vel : Word) (s : State) : (moveToBody h pos vel s).result = s.result := by simp [moveToBody]
@[simp] theorem moveToBody_allocCount (h : Nat) (pos vel : Word) (s : State) : (moveToBody h pos vel s).allocCount = s.allocCount := by simp [moveToBody]
@[simp] theorem moveToBody_phase (h : Nat) (pos vel : Word) (s : State) : (moveToBody h pos vel s).phase = s.phase := by simp [moveToBody]
@[simp] theorem moveToBody_cmd (h : Nat) (pos vel : Word) (s : State) : (moveToBody h pos vel s).cmd = s.cmd := by simp [moveToBody]
@[simp] theorem moveToBody_rdata (h : Nat) (pos vel : Word) (s : State) : (moveToBody h pos vel s).rdata = s.rdata := by simp [moveToBody]
@[simp] theorem moveToBody_tgt (h : Nat) (pos vel : Word) (s : State) : (moveToBody h pos vel s).tgt = s.tgt := by simp [moveToBody]
@[simp] theorem moveToBody_statusLog (h : Nat) (pos vel : Word) (s : State) : (moveToBody h pos vel s).statusLog = s.statusLog := by simp [moveToBody]
@[simp] theorem moveToBody_host (h : Nat) (pos vel : Word) (s : State) : (moveToBody h pos vel s).host = s.host := by simp [moveToBody]
@[simp] theorem moveToBody_hostLog (h : Nat) (pos vel : Word) (s : State) : (moveToBody h pos vel s).hostLog = s.hostLog := by simp [moveToBody]

/-! ### computeTarget -/

@[simp] theorem computeTarget_params (delta : Word) (s : State) : (computeTarget delta s).params = s.params := rfl
@[simp] theorem computeTarget_oracle (delta : Word) (s : State) : (computeTarget delta s).oracle = s.oracle := rfl
@[simp] theorem computeTarget_cmd0 (delta : Word) (s : State) : (computeTarget delta s).cmd0 = s.cmd0 := rfl
@[simp] theorem computeTarget_cmd1 (delta : Word) (s : State) : (computeTarget delta s).cmd1 = s.cmd1 := rfl
@[simp] theorem computeTarget_cmd2 (delta : Word) (s : State) : (computeTarget delta s).cmd2 = s.cmd2 := rfl
@[simp] theorem computeTarget_status (delta : Word) (s : State) : (computeTarget delta s).status = s.status := rfl
@[simp] theorem computeTarget_result (delta : Word) (s : State) : (computeTarget delta s).result = s.result := rfl
@[simp] theorem computeTarget_allocCount (delta : Word) (s : State) : (computeTarget delta s).allocCount = s.allocCount := rfl
@[simp] theorem computeTarget_phase (delta : Word) (s : State) : (computeTarget delta s).phase = s.phase := rfl
@[simp] theorem computeTarget_cmd (delta : Word) (s : State) : (computeTarget delta s).cmd = s.cmd := rfl
@[simp] theorem computeTarget_k (delta : Word) (s : State) : (computeTarget delta s).k = s.k := rfl
@[simp] theorem computeTarget_rdata (delta : Word) (s : State) : (computeTarget delta s).rdata = s.rdata := rfl
@[simp] theorem computeTarget_chans (delta : Word) (s : State) : (computeTarget delta s).chans = s.chans := rfl
@[simp] theorem computeTarget_bus (delta : Word) (s : State) : (computeTarget delta s).bus = s.bus := rfl
@[simp] theorem computeTarget_history (delta : Word) (s : State) : (computeTarget delta s).history = s.history := rfl
@[simp] theorem computeTarget_statusLog (delta : Word) (s : State) : (computeTarget delta s).statusLog = s.statusLog := rfl
@[simp] theorem computeTarget_regs (delta : Word) (s : State) : (computeTarget delta s).regs = s.regs := rfl
@[simp] theorem computeTarget_pends (delta : Word) (s : State) : (computeTarget delta s).pends = s.pends := rfl
@[simp] theorem computeTarget_draws (delta : Word) (s : State) : (computeTarget delta s).draws = s.draws := rfl
@[simp] theorem computeTarget_host (delta : Word) (s : State) : (computeTarget delta s).host = s.host := rfl
@[simp] theorem computeTarget_hostLog (delta : Word) (s : State) : (computeTarget delta s).hostLog = s.hostLog := rfl

/-! ### submit -/

@[simp] theorem submit_params (s : State) : (submit s).params = s.params := rfl
@[simp] theorem submit_oracle (s : State) : (submit s).oracle = s.oracle := rfl
@[simp] theorem submit_cmd0 (s : State) : (submit s).cmd0 = s.cmd0 := rfl
@[simp] theorem submit_cmd1 (s : State) : (submit s).cmd1 = s.cmd1 := rfl
@[simp] theorem submit_cmd2 (s : State) : (submit s).cmd2 = s.cmd2 := rfl
@[simp] theorem submit_result (s : State) : (submit s).result = s.result := rfl
@[simp] theorem submit_allocCount (s : State) : (submit s).allocCount = s.allocCount := rfl
@[simp] theorem submit_rdata (s : State) : (submit s).rdata = s.rdata := rfl
@[simp] theorem submit_tgt (s : State) : (submit s).tgt = s.tgt := rfl
@[simp] theorem submit_chans (s : State) : (submit s).chans = s.chans := rfl
@[simp] theorem submit_bus (s : State) : (submit s).bus = s.bus := rfl
@[simp] theorem submit_history (s : State) : (submit s).history = s.history := rfl
@[simp] theorem submit_statusLog (s : State) : (submit s).statusLog = s.statusLog := rfl
@[simp] theorem submit_regs (s : State) : (submit s).regs = s.regs := rfl
@[simp] theorem submit_pends (s : State) : (submit s).pends = s.pends := rfl
@[simp] theorem submit_draws (s : State) : (submit s).draws = s.draws := rfl
@[simp] theorem submit_host (s : State) : (submit s).host = s.host := rfl
@[simp] theorem submit_hostLog (s : State) : (submit s).hostLog = s.hostLog := rfl

/-! ### failedState -/

@[simp] theorem failedState_params (c : StatusCode) (d : BitVec 4) (s : State) : (failedState c d s).params = s.params := rfl
@[simp] theorem failedState_oracle (c : StatusCode) (d : BitVec 4) (s : State) : (failedState c d s).oracle = s.oracle := rfl
@[simp] theorem failedState_cmd0 (c : StatusCode) (d : BitVec 4) (s : State) : (failedState c d s).cmd0 = s.cmd0 := rfl
@[simp] theorem failedState_cmd1 (c : StatusCode) (d : BitVec 4) (s : State) : (failedState c d s).cmd1 = s.cmd1 := rfl
@[simp] theorem failedState_cmd2 (c : StatusCode) (d : BitVec 4) (s : State) : (failedState c d s).cmd2 = s.cmd2 := rfl
@[simp] theorem failedState_allocCount (c : StatusCode) (d : BitVec 4) (s : State) : (failedState c d s).allocCount = s.allocCount := rfl
@[simp] theorem failedState_cmd (c : StatusCode) (d : BitVec 4) (s : State) : (failedState c d s).cmd = s.cmd := rfl
@[simp] theorem failedState_k (c : StatusCode) (d : BitVec 4) (s : State) : (failedState c d s).k = s.k := rfl
@[simp] theorem failedState_rdata (c : StatusCode) (d : BitVec 4) (s : State) : (failedState c d s).rdata = s.rdata := rfl
@[simp] theorem failedState_tgt (c : StatusCode) (d : BitVec 4) (s : State) : (failedState c d s).tgt = s.tgt := rfl
@[simp] theorem failedState_chans (c : StatusCode) (d : BitVec 4) (s : State) : (failedState c d s).chans = s.chans := rfl
@[simp] theorem failedState_bus (c : StatusCode) (d : BitVec 4) (s : State) : (failedState c d s).bus = s.bus := rfl
@[simp] theorem failedState_history (c : StatusCode) (d : BitVec 4) (s : State) : (failedState c d s).history = s.history := rfl
@[simp] theorem failedState_regs (c : StatusCode) (d : BitVec 4) (s : State) : (failedState c d s).regs = s.regs := rfl
@[simp] theorem failedState_pends (c : StatusCode) (d : BitVec 4) (s : State) : (failedState c d s).pends = s.pends := rfl
@[simp] theorem failedState_draws (c : StatusCode) (d : BitVec 4) (s : State) : (failedState c d s).draws = s.draws := rfl
@[simp] theorem failedState_host (c : StatusCode) (d : BitVec 4) (s : State) : (failedState c d s).host = s.host := rfl
@[simp] theorem failedState_hostLog (c : StatusCode) (d : BitVec 4) (s : State) : (failedState c d s).hostLog = s.hostLog := rfl

end Sys2Proof.Machine
end

