-- ==== Sys2Proof/Laws/Memory.lean ====
section
/-! SUPPORT. Sparse memory: a read after a write, other keys, and the canonical form, which every operation keeps. -/

namespace Sys2Proof.Machine

variable {dflt : Nat → Option Word} {m : Memory} {key key' : Nat} {v : Word}

theorem memLookup_memInsert (m : Memory) (key key' : Nat) (v : Word) :
    memLookup (memInsert m key v) key' = if key' = key then some v else memLookup m key' := by
  induction m with
  | nil => simp [memInsert, memLookup]
  | cons e m ih =>
    obtain ⟨k, w⟩ := e
    simp only [memInsert]
    split
    · simp [memLookup]
    · split
      · next h => subst h; by_cases h' : key' = key <;> simp [memLookup, h']
      · next h =>
        by_cases hk : key' = k
        · have : key' ≠ key := fun e => h (e.symm.trans hk)
          simp [memLookup, hk, show ¬ k = key from fun e => h e.symm]
        · simp [memLookup, hk, ih]

theorem memLookup_memErase (m : Memory) (key key' : Nat) :
    memLookup (memErase m key) key' = if key' = key then none else memLookup m key' := by
  induction m with
  | nil => simp [memErase, memLookup]
  | cons e m ih =>
    obtain ⟨k, w⟩ := e
    rw [memErase] at ih ⊢
    by_cases hk : k = key
    · subst hk
      simp only [List.filter, bne_self_eq_false, ih, memLookup]
      split <;> rfl
    · simp only [List.filter, show (k != key) = true from by simpa using hk, memLookup, ih]
      by_cases hk' : key' = k
      · simp [hk', hk]
      · simp [hk']

/-- A read after a write to the same key gives the value written. -/
@[simp] theorem memRead_memWrite_same : memRead dflt (memWrite dflt m key v) key = some v := by
  by_cases h : dflt key = some v
  · simp [memRead, memWrite, memLookup_memErase, h]
  · simp [memRead, memWrite, memLookup_memInsert, h]

/-- A write leaves every other key alone. -/
theorem memRead_memWrite_ne (h : key' ≠ key) : memRead dflt (memWrite dflt m key v) key' = memRead dflt m key' := by
  by_cases h' : dflt key = some v
  · simp [memRead, memWrite, memLookup_memErase, h, h']
  · simp [memRead, memWrite, memLookup_memInsert, h, h']

/-- Unlisting a key makes it read as the unlisted value. -/
@[simp] theorem memRead_memErase_same : memRead dflt (memErase m key) key = dflt key := by
  simp [memRead, memLookup_memErase]

/-- Unlisting a key leaves every other key alone. -/
theorem memRead_memErase_ne (h : key' ≠ key) : memRead dflt (memErase m key) key' = memRead dflt m key' := by
  simp [memRead, memLookup_memErase, h]

theorem memSorted_cons (b : Option Nat) (k : Nat) (w : Word) (m : Memory) :
    memSorted b ((k, w) :: m) = ((∀ c, b = some c → c < k) ∧ memSorted (some k) m = true : Bool) := by
  cases b <;> simp [memSorted]

/-- Every listed key is above the bound of a rising list. -/
theorem memSorted_above (m : Memory) : ∀ {b : Nat}, memSorted (some b) m = true → ∀ e ∈ m, b < e.1 := by
  induction m with
  | nil => intro _ _ _ h; cases h
  | cons e m ih =>
    obtain ⟨k, w⟩ := e
    intro b h e' he'
    simp only [memSorted, Bool.and_eq_true, decide_eq_true_eq] at h
    rcases List.mem_cons.mp he' with rfl | he'
    · exact h.1
    · exact h.1.trans (ih h.2 e' he')

theorem memSorted_weaken : ∀ {m : Memory} {b c : Nat}, c ≤ b → memSorted (some b) m = true → memSorted (some c) m = true
  | [], _, _, _, _ => rfl
  | (k, w) :: m, b, c, hc, h => by
    simp only [memSorted, Bool.and_eq_true, decide_eq_true_eq] at h ⊢
    exact ⟨by omega, h.2⟩

theorem memSorted_memInsert (m : Memory) : ∀ {b : Option Nat}, (∀ c, b = some c → c < key) → memSorted b m = true →
    memSorted b (memInsert m key v) = true := by
  induction m with
  | nil => intro b hb _; cases b <;> simp_all [memInsert, memSorted]
  | cons e m ih =>
    obtain ⟨k, w⟩ := e
    intro b hb h
    rw [memSorted_cons] at h
    simp only [decide_eq_true_eq] at h
    simp only [memInsert]
    split
    · next hlt => simp only [memSorted_cons, decide_eq_true_eq]; exact ⟨hb, by intro c hc; cases hc; exact hlt, h.2⟩
    · split
      · next heq => subst heq; simp only [memSorted_cons, decide_eq_true_eq]; exact h
      · simp only [memSorted_cons, decide_eq_true_eq]
        exact ⟨h.1, ih (by intro c hc; cases hc; omega) h.2⟩

theorem memSorted_filter (m : Memory) (f : Nat × Word → Bool) : ∀ {b : Option Nat}, memSorted b m = true →
    memSorted b (m.filter f) = true := by
  induction m with
  | nil => intro b h; simpa using h
  | cons e m ih =>
    obtain ⟨k, w⟩ := e
    intro b h
    rw [memSorted_cons] at h
    simp only [decide_eq_true_eq] at h
    simp only [List.filter]
    split
    · rw [memSorted_cons, decide_eq_true_eq]; exact ⟨h.1, ih h.2⟩
    · have := ih h.2
      cases b with
      | none =>
        revert this
        cases m.filter f with
        | nil => intro _; rfl
        | cons e' m' => obtain ⟨k', w'⟩ := e'; intro h'; simp only [memSorted, Bool.and_eq_true] at h' ⊢; exact h'.2
      | some c => exact memSorted_weaken (h.1 c rfl).le this

theorem mem_memInsert : ∀ {m : Memory} {e : Nat × Word}, e ∈ memInsert m key v → e = (key, v) ∨ e ∈ m
  | [], e, h => by simpa [memInsert] using h
  | (k, w) :: m, e, h => by
    simp only [memInsert] at h
    split at h
    · simpa using h
    · split at h
      · rcases List.mem_cons.mp h with h | h
        · exact .inl h
        · exact .inr (List.mem_cons_of_mem _ h)
      · rcases List.mem_cons.mp h with h | h
        · exact .inr (h ▸ List.mem_cons_self)
        · exact (mem_memInsert h).imp id (List.mem_cons_of_mem _)

/-- A write keeps the canonical form. -/
theorem wf_memWrite (h : Memory.wf dflt m = true) : Memory.wf dflt (memWrite dflt m key v) = true := by
  simp only [Memory.wf, Bool.and_eq_true, List.all_eq_true, bne_iff_ne] at h ⊢
  unfold memWrite
  split
  · exact ⟨memSorted_filter m _ h.1, fun e he => h.2 e (List.mem_filter.mp he).1⟩
  · next hne =>
    refine ⟨memSorted_memInsert m (by simp) h.1, fun e he => ?_⟩
    rcases mem_memInsert he with rfl | he
    · exact hne
    · exact h.2 e he

/-- Unlisting a key keeps the canonical form. -/
theorem wf_memErase (h : Memory.wf dflt m = true) : Memory.wf dflt (memErase m key) = true := by
  simp only [Memory.wf, Bool.and_eq_true, List.all_eq_true, bne_iff_ne] at h ⊢
  exact ⟨memSorted_filter m _ h.1, fun e he => h.2 e (List.mem_filter.mp he).1⟩

/-- The empty memory is in canonical form. -/
theorem wf_nil : Memory.wf dflt [] = true := rfl

/-- Register keys tell devices and addresses apart. -/
theorem regKey_inj {cs cs' : Word} {a a' : Addr} (h : regKey cs a = regKey cs' a') : cs = cs' ∧ a = a' := by
  unfold regKey at h
  have := a.isLt
  have := a'.isLt
  exact ⟨BitVec.eq_of_toNat_eq (by omega), BitVec.eq_of_toNat_eq (by omega)⟩

theorem regDefault_regKey (p : Params) (cs : Word) (a : Addr) : regDefault p (regKey cs a) = powerOn p a := by
  unfold regDefault regKey
  congr 1
  apply BitVec.eq_of_toNat_eq
  have := a.isLt
  simp [BitVec.toNat_ofNat, Nat.add_mod, Nat.mul_mod_right, Nat.mod_eq_of_lt this]

end Sys2Proof.Machine
end

