-- ==== Sys2Proof/Laws/Views.lean ====
section
/-! SUPPORT. The views of the state (a device register, a read latch, a channel entry, the next answer) under the operations that
do not touch what they show. -/

namespace Sys2Proof.Machine

/-! ### deviceReg -/

@[simp] theorem deviceReg_setDevicePend (cs v : Word) (s : State) (cs' : Word) (a' : Addr) :
    deviceReg (setDevicePend cs v s) cs' a' = deviceReg s cs' a' := by simp [deviceReg]
@[simp] theorem deviceReg_clearDevicePend (cs : Word) (s : State) (cs' : Word) (a' : Addr) :
    deviceReg (clearDevicePend cs s) cs' a' = deviceReg s cs' a' := by simp [deviceReg]
@[simp] theorem deviceReg_setChan (h : Nat) (c : Channel) (s : State) (cs' : Word) (a' : Addr) :
    deviceReg (setChan h c s) cs' a' = deviceReg s cs' a' := by simp [deviceReg]
@[simp] theorem deviceReg_setRamp (h : Nat) (m : RampMode) (s : State) (cs' : Word) (a' : Addr) :
    deviceReg (setRamp h m s) cs' a' = deviceReg s cs' a' := by simp [deviceReg]
@[simp] theorem deviceReg_setDir (h : Nat) (d : Direction) (s : State) (cs' : Word) (a' : Addr) :
    deviceReg (setDir h d s) cs' a' = deviceReg s cs' a' := by simp [deviceReg]
@[simp] theorem deviceReg_setVmax (h : Nat) (v : Word) (s : State) (cs' : Word) (a' : Addr) :
    deviceReg (setVmax h v s) cs' a' = deviceReg s cs' a' := by simp [deviceReg]
@[simp] theorem deviceReg_finish (c : StatusCode) (d : BitVec 4) (s : State) (cs' : Word) (a' : Addr) :
    deviceReg (finish c d s) cs' a' = deviceReg s cs' a' := by simp [deviceReg]
@[simp] theorem deviceReg_complete (r : Word) (s : State) (cs' : Word) (a' : Addr) :
    deviceReg (complete r s) cs' a' = deviceReg s cs' a' := by simp [deviceReg]
@[simp] theorem deviceReg_raise (c : StatusCode) (d : BitVec 4) (s : State) (cs' : Word) (a' : Addr) :
    deviceReg (raise c d s) cs' a' = deviceReg s cs' a' := by simp [deviceReg]
@[simp] theorem deviceReg_raiseIllegal (r : Reject) (s : State) (cs' : Word) (a' : Addr) :
    deviceReg (raiseIllegal r s) cs' a' = deviceReg s cs' a' := by simp [deviceReg]
@[simp] theorem deviceReg_assertSelect (h : Nat) (tx : Frame) (s : State) (cs' : Word) (a' : Addr) :
    deviceReg (assertSelect h tx s) cs' a' = deviceReg s cs' a' := by simp [deviceReg]
@[simp] theorem deviceReg_endExchange (tx rx : Frame) (s : State) (cs' : Word) (a' : Addr) :
    deviceReg (endExchange tx rx s) cs' a' = deviceReg s cs' a' := by simp [deviceReg]
@[simp] theorem deviceReg_flagAccess (a : Addr) (dir : AccessDir) (s : State) (cs' : Word) (a' : Addr) :
    deviceReg (flagAccess a dir s) cs' a' = deviceReg s cs' a' := by simp [deviceReg]
@[simp] theorem deviceReg_latchRead (s : State) (cs' : Word) (a' : Addr) :
    deviceReg (latchRead s) cs' a' = deviceReg s cs' a' := by simp [deviceReg]
@[simp] theorem deviceReg_computeTarget (delta : Word) (s : State) (cs' : Word) (a' : Addr) :
    deviceReg (computeTarget delta s) cs' a' = deviceReg s cs' a' := by simp [deviceReg]
@[simp] theorem deviceReg_submit (s : State) (cs' : Word) (a' : Addr) :
    deviceReg (submit s) cs' a' = deviceReg s cs' a' := by simp [deviceReg]
@[simp] theorem deviceReg_failedState (c : StatusCode) (d : BitVec 4) (s : State) (cs' : Word) (a' : Addr) :
    deviceReg (failedState c d s) cs' a' = deviceReg s cs' a' := by simp [deviceReg]

/-! ### devicePend -/

@[simp] theorem devicePend_setDeviceReg (cs : Word) (a : Addr) (v : Word) (s : State) (cs' : Word) :
    devicePend (setDeviceReg cs a v s) cs' = devicePend s cs' := by simp [devicePend]
@[simp] theorem devicePend_setChan (h : Nat) (c : Channel) (s : State) (cs' : Word) :
    devicePend (setChan h c s) cs' = devicePend s cs' := by simp [devicePend]
@[simp] theorem devicePend_setRamp (h : Nat) (m : RampMode) (s : State) (cs' : Word) :
    devicePend (setRamp h m s) cs' = devicePend s cs' := by simp [devicePend]
@[simp] theorem devicePend_setDir (h : Nat) (d : Direction) (s : State) (cs' : Word) :
    devicePend (setDir h d s) cs' = devicePend s cs' := by simp [devicePend]
@[simp] theorem devicePend_setVmax (h : Nat) (v : Word) (s : State) (cs' : Word) :
    devicePend (setVmax h v s) cs' = devicePend s cs' := by simp [devicePend]
@[simp] theorem devicePend_finish (c : StatusCode) (d : BitVec 4) (s : State) (cs' : Word) :
    devicePend (finish c d s) cs' = devicePend s cs' := by simp [devicePend]
@[simp] theorem devicePend_complete (r : Word) (s : State) (cs' : Word) :
    devicePend (complete r s) cs' = devicePend s cs' := by simp [devicePend]
@[simp] theorem devicePend_raise (c : StatusCode) (d : BitVec 4) (s : State) (cs' : Word) :
    devicePend (raise c d s) cs' = devicePend s cs' := by simp [devicePend]
@[simp] theorem devicePend_raiseIllegal (r : Reject) (s : State) (cs' : Word) :
    devicePend (raiseIllegal r s) cs' = devicePend s cs' := by simp [devicePend]
@[simp] theorem devicePend_assertSelect (h : Nat) (tx : Frame) (s : State) (cs' : Word) :
    devicePend (assertSelect h tx s) cs' = devicePend s cs' := by simp [devicePend]
@[simp] theorem devicePend_endExchange (tx rx : Frame) (s : State) (cs' : Word) :
    devicePend (endExchange tx rx s) cs' = devicePend s cs' := by simp [devicePend]
@[simp] theorem devicePend_flagAccess (a : Addr) (dir : AccessDir) (s : State) (cs' : Word) :
    devicePend (flagAccess a dir s) cs' = devicePend s cs' := by simp [devicePend]
@[simp] theorem devicePend_latchRead (s : State) (cs' : Word) :
    devicePend (latchRead s) cs' = devicePend s cs' := by simp [devicePend]
@[simp] theorem devicePend_computeTarget (delta : Word) (s : State) (cs' : Word) :
    devicePend (computeTarget delta s) cs' = devicePend s cs' := by simp [devicePend]
@[simp] theorem devicePend_submit (s : State) (cs' : Word) :
    devicePend (submit s) cs' = devicePend s cs' := by simp [devicePend]
@[simp] theorem devicePend_failedState (c : StatusCode) (d : BitVec 4) (s : State) (cs' : Word) :
    devicePend (failedState c d s) cs' = devicePend s cs' := by simp [devicePend]

/-! ### chanOf -/

@[simp] theorem chanOf_setDeviceReg (cs : Word) (a : Addr) (v : Word) (s : State) (h' : Nat) :
    chanOf (setDeviceReg cs a v s) h' = chanOf s h' := by simp [chanOf]
@[simp] theorem chanOf_setDevicePend (cs v : Word) (s : State) (h' : Nat) :
    chanOf (setDevicePend cs v s) h' = chanOf s h' := by simp [chanOf]
@[simp] theorem chanOf_clearDevicePend (cs : Word) (s : State) (h' : Nat) :
    chanOf (clearDevicePend cs s) h' = chanOf s h' := by simp [chanOf]
@[simp] theorem chanOf_finish (c : StatusCode) (d : BitVec 4) (s : State) (h' : Nat) :
    chanOf (finish c d s) h' = chanOf s h' := by simp [chanOf]
@[simp] theorem chanOf_complete (r : Word) (s : State) (h' : Nat) :
    chanOf (complete r s) h' = chanOf s h' := by simp [chanOf]
@[simp] theorem chanOf_raise (c : StatusCode) (d : BitVec 4) (s : State) (h' : Nat) :
    chanOf (raise c d s) h' = chanOf s h' := by simp [chanOf]
@[simp] theorem chanOf_raiseIllegal (r : Reject) (s : State) (h' : Nat) :
    chanOf (raiseIllegal r s) h' = chanOf s h' := by simp [chanOf]
@[simp] theorem chanOf_deviceWrite (cs : Word) (a : Addr) (v : Word) (s : State) (h' : Nat) :
    chanOf (deviceWrite cs a v s) h' = chanOf s h' := by simp [chanOf]
@[simp] theorem chanOf_deviceRead (cs : Word) (a : Addr) (s : State) (h' : Nat) :
    chanOf (deviceRead cs a s) h' = chanOf s h' := by simp [chanOf]
@[simp] theorem chanOf_deviceAct (cs : Word) (tx : Frame) (s : State) (h' : Nat) :
    chanOf (deviceAct cs tx s) h' = chanOf s h' := by simp [chanOf]
@[simp] theorem chanOf_assertSelect (h : Nat) (tx : Frame) (s : State) (h' : Nat) :
    chanOf (assertSelect h tx s) h' = chanOf s h' := by simp [chanOf]
@[simp] theorem chanOf_endExchange (tx rx : Frame) (s : State) (h' : Nat) :
    chanOf (endExchange tx rx s) h' = chanOf s h' := by simp [chanOf]
@[simp] theorem chanOf_answer (tx : Frame) (s : State) (h' : Nat) :
    chanOf (answer tx s) h' = chanOf s h' := by simp [chanOf]
@[simp] theorem chanOf_exchange (h : Nat) (tx : Frame) (s : State) (h' : Nat) :
    chanOf (exchange h tx s) h' = chanOf s h' := by simp [chanOf]
@[simp] theorem chanOf_flagAccess (a : Addr) (dir : AccessDir) (s : State) (h' : Nat) :
    chanOf (flagAccess a dir s) h' = chanOf s h' := by simp [chanOf]
@[simp] theorem chanOf_writeReg (h : Nat) (a : Addr) (v : Word) (s : State) (h' : Nat) :
    chanOf (writeReg h a v s) h' = chanOf s h' := by simp [chanOf]
@[simp] theorem chanOf_latchRead (s : State) (h' : Nat) :
    chanOf (latchRead s) h' = chanOf s h' := by simp [chanOf]
@[simp] theorem chanOf_readReg (h : Nat) (a : Addr) (s : State) (h' : Nat) :
    chanOf (readReg h a s) h' = chanOf s h' := by simp [chanOf]
@[simp] theorem chanOf_computeTarget (delta : Word) (s : State) (h' : Nat) :
    chanOf (computeTarget delta s) h' = chanOf s h' := by simp [chanOf]
@[simp] theorem chanOf_submit (s : State) (h' : Nat) :
    chanOf (submit s) h' = chanOf s h' := by simp [chanOf]
@[simp] theorem chanOf_failedState (c : StatusCode) (d : BitVec 4) (s : State) (h' : Nat) :
    chanOf (failedState c d s) h' = chanOf s h' := by simp [chanOf]

/-! ### answerFrame -/

@[simp] theorem answerFrame_setDeviceReg (cs : Word) (a : Addr) (v : Word) (s : State) (cs' : Word) :
    answerFrame (setDeviceReg cs a v s) cs' = answerFrame s cs' := by simp [answerFrame, answerStatus, answerPayload]
@[simp] theorem answerFrame_setChan (h : Nat) (c : Channel) (s : State) (cs' : Word) :
    answerFrame (setChan h c s) cs' = answerFrame s cs' := by simp [answerFrame, answerStatus, answerPayload]
@[simp] theorem answerFrame_setRamp (h : Nat) (m : RampMode) (s : State) (cs' : Word) :
    answerFrame (setRamp h m s) cs' = answerFrame s cs' := by simp [answerFrame, answerStatus, answerPayload]
@[simp] theorem answerFrame_setDir (h : Nat) (d : Direction) (s : State) (cs' : Word) :
    answerFrame (setDir h d s) cs' = answerFrame s cs' := by simp [answerFrame, answerStatus, answerPayload]
@[simp] theorem answerFrame_setVmax (h : Nat) (v : Word) (s : State) (cs' : Word) :
    answerFrame (setVmax h v s) cs' = answerFrame s cs' := by simp [answerFrame, answerStatus, answerPayload]
@[simp] theorem answerFrame_finish (c : StatusCode) (d : BitVec 4) (s : State) (cs' : Word) :
    answerFrame (finish c d s) cs' = answerFrame s cs' := by simp [answerFrame, answerStatus, answerPayload]
@[simp] theorem answerFrame_complete (r : Word) (s : State) (cs' : Word) :
    answerFrame (complete r s) cs' = answerFrame s cs' := by simp [answerFrame, answerStatus, answerPayload]
@[simp] theorem answerFrame_raise (c : StatusCode) (d : BitVec 4) (s : State) (cs' : Word) :
    answerFrame (raise c d s) cs' = answerFrame s cs' := by simp [answerFrame, answerStatus, answerPayload]
@[simp] theorem answerFrame_raiseIllegal (r : Reject) (s : State) (cs' : Word) :
    answerFrame (raiseIllegal r s) cs' = answerFrame s cs' := by simp [answerFrame, answerStatus, answerPayload]
@[simp] theorem answerFrame_assertSelect (h : Nat) (tx : Frame) (s : State) (cs' : Word) :
    answerFrame (assertSelect h tx s) cs' = answerFrame s cs' := by simp [answerFrame, answerStatus, answerPayload]
@[simp] theorem answerFrame_flagAccess (a : Addr) (dir : AccessDir) (s : State) (cs' : Word) :
    answerFrame (flagAccess a dir s) cs' = answerFrame s cs' := by simp [answerFrame, answerStatus, answerPayload]
@[simp] theorem answerFrame_latchRead (s : State) (cs' : Word) :
    answerFrame (latchRead s) cs' = answerFrame s cs' := by simp [answerFrame, answerStatus, answerPayload]
@[simp] theorem answerFrame_computeTarget (delta : Word) (s : State) (cs' : Word) :
    answerFrame (computeTarget delta s) cs' = answerFrame s cs' := by simp [answerFrame, answerStatus, answerPayload]
@[simp] theorem answerFrame_submit (s : State) (cs' : Word) :
    answerFrame (submit s) cs' = answerFrame s cs' := by simp [answerFrame, answerStatus, answerPayload]
@[simp] theorem answerFrame_failedState (c : StatusCode) (d : BitVec 4) (s : State) (cs' : Word) :
    answerFrame (failedState c d s) cs' = answerFrame s cs' := by simp [answerFrame, answerStatus, answerPayload]

end Sys2Proof.Machine
end

