-- ==== Sys2Proof/Laws/Ops.lean ====
section
/-! SUPPORT. What each shared operation writes, said once: the provers cite these and need not unfold the operations. -/

namespace Sys2Proof.Machine

variable (s : State)

/-! ### Device registers and latches -/

@[simp] theorem deviceReg_setDeviceReg_same (cs : Word) (a : Addr) (v : Word) :
    deviceReg (setDeviceReg cs a v s) cs a = some v := by
  simp [deviceReg, setDeviceReg]

theorem deviceReg_setDeviceReg_ne (cs cs' : Word) (a a' : Addr) (v : Word) (h : cs' ≠ cs ∨ a' ≠ a) :
    deviceReg (setDeviceReg cs a v s) cs' a' = deviceReg s cs' a' := by
  have hk : regKey cs' a' ≠ regKey cs a := fun e => by rcases regKey_inj e with ⟨rfl, rfl⟩; simp at h
  simp [deviceReg, setDeviceReg, memRead_memWrite_ne hk]

/-- A device register depends on the parameters and the register cells alone. -/
theorem deviceReg_congr {s t : State} (hp : t.params = s.params) (hr : t.regs = s.regs) (cs : Word) (a : Addr) :
    deviceReg t cs a = deviceReg s cs a := by
  simp [deviceReg, hp, hr]

/-- A read latch depends on the latch cells alone. -/
theorem devicePend_congr {s t : State} (hp : t.pends = s.pends) (cs : Word) : devicePend t cs = devicePend s cs := by
  simp [devicePend, hp]

@[simp] theorem devicePend_setDevicePend_same (cs v : Word) : devicePend (setDevicePend cs v s) cs = some v := by
  simp [devicePend, setDevicePend]

theorem devicePend_setDevicePend_ne (cs cs' v : Word) (h : cs' ≠ cs) :
    devicePend (setDevicePend cs v s) cs' = devicePend s cs' := by
  have hk : cs'.toNat ≠ cs.toNat := fun e => h (BitVec.eq_of_toNat_eq e)
  simp [devicePend, setDevicePend, memRead_memWrite_ne hk]

@[simp] theorem devicePend_clearDevicePend_same (cs : Word) : devicePend (clearDevicePend cs s) cs = none := by
  simp [devicePend, clearDevicePend, pendDefault]

theorem devicePend_clearDevicePend_ne (cs cs' : Word) (h : cs' ≠ cs) :
    devicePend (clearDevicePend cs s) cs' = devicePend s cs' := by
  have hk : cs'.toNat ≠ cs.toNat := fun e => h (BitVec.eq_of_toNat_eq e)
  simp [devicePend, clearDevicePend, memRead_memErase_ne hk]

/-! ### Channel file -/

theorem setChan_chans (h : Nat) (c : Channel) : (setChan h c s).chans = s.chans.set h c := rfl

@[simp] theorem setRamp_chans (h : Nat) (m : RampMode) :
    (setRamp h m s).chans = s.chans.set h { chanOf s h with ramp := .mode m } := rfl

@[simp] theorem setDir_chans (h : Nat) (d : Direction) :
    (setDir h d s).chans = s.chans.set h { chanOf s h with dir := d } := rfl

@[simp] theorem setVmax_chans (h : Nat) (v : Word) :
    (setVmax h v s).chans = s.chans.set h { chanOf s h with vmax := v } := rfl

/-- A channel entry depends on the channel file alone. -/
theorem chanOf_congr {s t : State} (hc : t.chans = s.chans) (h : Nat) : chanOf t h = chanOf s h := by
  simp [chanOf, hc]

theorem chanOf_setChan (h h' : Nat) (c : Channel) :
    chanOf (setChan h c s) h' = if h' = h ∧ h < s.chans.length then c else chanOf s h' := by
  unfold chanOf setChan
  by_cases hh : h' = h
  · subst hh
    by_cases hl : h' < s.chans.length
    · simp [hl]
    · simp [hl]
  · simp [hh, List.getElem?_set_ne (fun e => hh e.symm)]

/-- Writing the shadow leaves the chip-select alone. -/
@[simp] theorem chanOf_setRamp_cs (h h' : Nat) (m : RampMode) : (chanOf (setRamp h m s) h').cs = (chanOf s h').cs := by
  unfold setRamp
  rw [chanOf_setChan]
  split
  · next hh => rw [hh.1]
  · rfl

/-- Writing the shadow leaves the stored sign alone. -/
@[simp] theorem chanOf_setRamp_dir (h h' : Nat) (m : RampMode) : (chanOf (setRamp h m s) h').dir = (chanOf s h').dir := by
  unfold setRamp
  rw [chanOf_setChan]
  split
  · next hh => rw [hh.1]
  · rfl

/-- Writing the shadow leaves the stored Vmax alone. -/
@[simp] theorem chanOf_setRamp_vmax (h h' : Nat) (m : RampMode) : (chanOf (setRamp h m s) h').vmax = (chanOf s h').vmax := by
  unfold setRamp
  rw [chanOf_setChan]
  split
  · next hh => rw [hh.1]
  · rfl

/-- Writing the shadow leaves the allocation alone. -/
@[simp] theorem chanOf_setRamp_alloc (h h' : Nat) (m : RampMode) : (chanOf (setRamp h m s) h').alloc = (chanOf s h').alloc := by
  unfold setRamp
  rw [chanOf_setChan]
  split
  · next hh => rw [hh.1]
  · rfl

/-! ### Completion and failure -/

@[simp] theorem finish_status (c : StatusCode) (d : BitVec 4) : (finish c d s).status = completedStatus c d s.status := rfl
@[simp] theorem finish_phase (c : StatusCode) (d : BitVec 4) : (finish c d s).phase = .idle := rfl
@[simp] theorem finish_statusLog (c : StatusCode) (d : BitVec 4) :
    (finish c d s).statusLog = s.statusLog ++ [completedStatus c d s.status] := rfl
@[simp] theorem complete_status (r : Word) : (complete r s).status = completedStatus .ok 0 s.status := rfl
@[simp] theorem complete_phase (r : Word) : (complete r s).phase = .idle := rfl
@[simp] theorem complete_result (r : Word) : (complete r s).result = r := rfl
@[simp] theorem complete_statusLog (r : Word) :
    (complete r s).statusLog = s.statusLog ++ [completedStatus .ok 0 s.status] := rfl
@[simp] theorem raise_status (c : StatusCode) (d : BitVec 4) : (raise c d s).status = completedStatus c d s.status := rfl
@[simp] theorem raise_phase (c : StatusCode) (d : BitVec 4) : (raise c d s).phase = .idle := rfl
@[simp] theorem raise_result (c : StatusCode) (d : BitVec 4) : (raise c d s).result = 0 := rfl
@[simp] theorem raise_statusLog (c : StatusCode) (d : BitVec 4) :
    (raise c d s).statusLog = s.statusLog ++ [completedStatus c d s.status] := rfl

/-- A failure changes `RESULT`, `STATUS`, the phase and the log, and nothing else. -/
theorem raise_eq_failedState (c : StatusCode) (d : BitVec 4) : raise c d s = failedState c d s := rfl

@[simp] theorem submit_status : (submit s).status = submittedStatus s.status := rfl
@[simp] theorem submit_phase : (submit s).phase = .busy := rfl
@[simp] theorem submit_k : (submit s).k = 0 := rfl
@[simp] theorem submit_cmd : (submit s).cmd = ⟨s.cmd0, s.cmd1, s.cmd2⟩ := rfl

/-! ### Exchange -/

@[simp] theorem assertSelect_bus (h : Nat) (tx : Frame) : (assertSelect h tx s).bus =
    { select := true, h := h, cs := (chanOf s h).cs, tx := tx, rx := s.bus.rx } := rfl
@[simp] theorem endExchange_bus (tx rx : Frame) :
    (endExchange tx rx s).bus = { s.bus with select := false, tx := tx, rx := rx } := rfl
@[simp] theorem endExchange_k (tx rx : Frame) : (endExchange tx rx s).k = s.k + 1 := rfl
@[simp] theorem endExchange_draws (tx rx : Frame) : (endExchange tx rx s).draws = s.draws + 1 := rfl
@[simp] theorem endExchange_history (tx rx : Frame) :
    (endExchange tx rx s).history = s.history ++ [⟨s.bus.h, tx, rx⟩] := rfl
@[simp] theorem latchRead_rdata : (latchRead s).rdata = framePayload s.bus.rx := rfl
@[simp] theorem computeTarget_tgt (delta : Word) : (computeTarget delta s).tgt = s.rdata + delta := rfl

@[simp] theorem flagAccess_status (a : Addr) (dir : AccessDir) : (flagAccess a dir s).status =
    { s.status with undefAccess := s.status.undefAccess || !checkAccess s.params a dir } := by
  unfold flagAccess
  split
  · next h => simp [h]
  · next h => simp only [Bool.not_eq_true] at h; simp [h]

@[simp] theorem answer_k (tx : Frame) : (answer tx s).k = s.k + 1 := by simp [answer]
@[simp] theorem answer_draws (tx : Frame) : (answer tx s).draws = s.draws + 1 := by simp [answer]
@[simp] theorem answer_history (tx : Frame) :
    (answer tx s).history = s.history ++ [⟨s.bus.h, tx, answerFrame s s.bus.cs⟩] := by simp [answer]
@[simp] theorem answer_bus (tx : Frame) :
    (answer tx s).bus = { s.bus with select := false, tx := tx, rx := answerFrame s s.bus.cs } := by simp [answer]

@[simp] theorem exchange_k (h : Nat) (tx : Frame) : (exchange h tx s).k = s.k + 1 := by simp [exchange]
@[simp] theorem exchange_draws (h : Nat) (tx : Frame) : (exchange h tx s).draws = s.draws + 1 := by simp [exchange]
@[simp] theorem exchange_history (h : Nat) (tx : Frame) :
    (exchange h tx s).history = s.history ++ [⟨h, tx, answerFrame s (chanOf s h).cs⟩] := by simp [exchange]
@[simp] theorem exchange_bus (h : Nat) (tx : Frame) : (exchange h tx s).bus =
    { select := false, h := h, cs := (chanOf s h).cs, tx := tx, rx := answerFrame s (chanOf s h).cs } := by simp [exchange]

/-- The device registers a frame can change are the one it addresses on its chip-select. -/
theorem deviceReg_deviceAct_ne (cs cs' : Word) (tx : Frame) (a : Addr) (h : cs' ≠ cs ∨ a ≠ frameAddr tx) :
    deviceReg (deviceAct cs tx s) cs' a = deviceReg s cs' a := by
  have key := fun v => deviceReg_setDeviceReg_ne s cs cs' (frameAddr tx) a v h
  unfold deviceAct deviceWrite deviceRead
  split
  · split <;> simp [key]
  · simp [key]

/-- A frame changes no other device's latch. -/
theorem devicePend_deviceAct_ne (cs cs' : Word) (tx : Frame) (h : cs' ≠ cs) :
    devicePend (deviceAct cs tx s) cs' = devicePend s cs' := by
  unfold deviceAct deviceWrite deviceRead
  split
  · split
    · simp [devicePend_clearDevicePend_ne _ _ _ h]
    · simp [devicePend_setDevicePend_ne _ _ _ _ h]
  · simp [devicePend_setDevicePend_ne _ _ _ _ h]

/-- A write that settles leaves the written value (40_framer R122). -/
theorem writtenValue_of_settles (cs : Word) {a : Addr} (v : Word) (h : WriteSettles s a) : writtenValue s cs a v = v := by
  unfold writtenValue
  cases ho : s.oracle with
  | reference => rfl
  | free =>
    rcases h with h | h
    · rw [ho] at h; cases h
    · revert h; cases accessClass s.params a <;> simp [freeWrite]

/-- At a free device a `ReadWriteSplit` register is left a free value (20_memory R60). -/
theorem writtenValue_of_split (cs : Word) {a : Addr} (v : Word) (ho : s.oracle = .free)
    (hc : accessClass s.params a = .readWriteSplit) : writtenValue s cs a v = Config.splitWrite cs a v := by
  simp [writtenValue, freeWrite, ho, hc]

/-- What a permitted write leaves depends on the register, the word and the device law alone, so a repetition of it leaves the
same (20_memory R61). -/
theorem writtenValue_congr {s t : State} (hp : t.params = s.params) (ho : t.oracle = s.oracle) (cs : Word) {a : Addr} (v : Word)
    (h : checkAccess s.params a .write = true) : writtenValue t cs a v = writtenValue s cs a v := by
  unfold writtenValue checkAccess at *
  rw [hp, ho]
  cases s.oracle with
  | reference => rfl
  | free => revert h; cases accessClass s.params a <;> simp [freeWrite, permits]

/-- After a write the addressed register holds the value `writtenValue` gives. -/
@[simp] theorem deviceReg_deviceWrite_same (cs : Word) (a : Addr) (v : Word) :
    deviceReg (deviceWrite cs a v s) cs a = some (writtenValue s cs a v) := by
  unfold deviceWrite
  split <;> simp

/-- After a read the latch holds the sample (40_framer R123). -/
@[simp] theorem devicePend_deviceRead_same (cs : Word) (a : Addr) :
    devicePend (deviceRead cs a s) cs = some (sampledValue s cs a) := by
  simp [deviceRead]

/-- After a read the register holds the sample, or 0 if reading clears it (20_memory R59). -/
@[simp] theorem deviceReg_deviceRead_same (cs : Word) (a : Addr) :
    deviceReg (deviceRead cs a s) cs a = some (afterSample s.params a (sampledValue s cs a)) := by
  simp [deviceRead]

theorem deviceReg_answer_ne (tx : Frame) (cs : Word) (a : Addr) (h : cs ≠ s.bus.cs ∨ a ≠ frameAddr tx) :
    deviceReg (answer tx s) cs a = deviceReg s cs a := by
  simp [answer, deviceReg_deviceAct_ne s _ _ _ _ h]

theorem devicePend_answer_ne (tx : Frame) (cs : Word) (h : cs ≠ s.bus.cs) : devicePend (answer tx s) cs = devicePend s cs := by
  simp [answer, devicePend_deviceAct_ne s _ _ _ h]

/-- An exchange changes no register but the one its frame addresses on the channel's chip-select. -/
theorem deviceReg_exchange_ne (h : Nat) (tx : Frame) (cs : Word) (a : Addr)
    (hne : cs ≠ (chanOf s h).cs ∨ a ≠ frameAddr tx) : deviceReg (exchange h tx s) cs a = deviceReg s cs a := by
  rw [exchange, deviceReg_answer_ne _ _ _ _ hne, deviceReg_assertSelect]

theorem devicePend_exchange_ne (h : Nat) (tx : Frame) (cs : Word) (hne : cs ≠ (chanOf s h).cs) :
    devicePend (exchange h tx s) cs = devicePend s cs := by
  rw [exchange, devicePend_answer_ne _ _ _ hne, devicePend_assertSelect]

/-- A device's act does not look at the channel file. -/
theorem deviceAct_withChans (c : List Channel) (cs : Word) (tx : Frame) :
    deviceAct cs tx { s with chans := c } = { deviceAct cs tx s with chans := c } := by
  rcases s with ⟨_, (_ | _)⟩ <;> unfold deviceAct <;> split <;> rfl

/-- An exchange looks at no more of the channel file than the channel's chip-select. -/
theorem exchange_withChans {c : List Channel} {h : Nat} (tx : Frame)
    (hc : (chanOf { s with chans := c } h).cs = (chanOf s h).cs) :
    exchange h tx { s with chans := c } = { exchange h tx s with chans := c } := by
  have ha : assertSelect h tx { s with chans := c } = { assertSelect h tx s with chans := c } := by
    simp only [assertSelect, hc]
  have hf : answerFrame { assertSelect h tx s with chans := c } = answerFrame (assertSelect h tx s) := rfl
  simp only [exchange, ha, answer, deviceAct_withChans, hf]
  rfl

/-! ### Register write and read -/

/-- `WriteReg` is one exchange of the write frame (40_framer R110). -/
@[simp] theorem writeReg_history (h : Nat) (a : Addr) (v : Word) :
    (writeReg h a v s).history = s.history ++ [⟨h, writeFrame a v, answerFrame s (chanOf s h).cs⟩] := by simp [writeReg]

@[simp] theorem writeReg_k (h : Nat) (a : Addr) (v : Word) : (writeReg h a v s).k = s.k + 1 := by simp [writeReg]
@[simp] theorem writeReg_draws (h : Nat) (a : Addr) (v : Word) : (writeReg h a v s).draws = s.draws + 1 := by simp [writeReg]

@[simp] theorem writeReg_status (h : Nat) (a : Addr) (v : Word) : (writeReg h a v s).status =
    { s.status with undefAccess := s.status.undefAccess || !checkAccess s.params a .write } := by simp [writeReg]

@[simp] theorem writeReg_bus (h : Nat) (a : Addr) (v : Word) : (writeReg h a v s).bus =
    { select := false, h := h, cs := (chanOf s h).cs, tx := writeFrame a v, rx := answerFrame s (chanOf s h).cs } := by
  simp [writeReg]

theorem deviceReg_writeReg_ne (h : Nat) (a : Addr) (v : Word) (cs : Word) (a' : Addr)
    (hne : cs ≠ (chanOf s h).cs ∨ a' ≠ a) : deviceReg (writeReg h a v s) cs a' = deviceReg s cs a' := by
  rw [writeReg, deviceReg_exchange_ne _ _ _ _ _ (by simpa using hne), deviceReg_flagAccess]

theorem devicePend_writeReg_ne (h : Nat) (a : Addr) (v cs : Word) (hne : cs ≠ (chanOf s h).cs) :
    devicePend (writeReg h a v s) cs = devicePend s cs := by
  rw [writeReg, devicePend_exchange_ne _ _ _ _ (by simpa using hne), devicePend_flagAccess]

/-- The register written holds what the device makes of the value (40_framer R122). -/
theorem deviceReg_writeReg_written (h : Nat) (a : Addr) (v : Word) :
    deviceReg (writeReg h a v s) (chanOf s h).cs a = some (writtenValue s (chanOf s h).cs a v) := by
  have hw : ∀ cs, writtenValue (assertSelect h (writeFrame a v) (flagAccess a .write s)) cs a v = writtenValue s cs a v := by
    intro cs; simp [writtenValue]
  simp [writeReg, exchange, answer, deviceAct, hw]

/-- The register written holds the value, where the write settles (40_framer R122). -/
theorem deviceReg_writeReg_same (h : Nat) (a : Addr) (v : Word) (hw : WriteSettles s a) :
    deviceReg (writeReg h a v s) (chanOf s h).cs a = some v := by
  rw [deviceReg_writeReg_written, writtenValue_of_settles _ _ v hw]

/-- `ReadReg` is two exchanges of the read frame (40_framer R111, R112). -/
theorem readReg_history (h : Nat) (a : Addr) : (readReg h a s).history = s.history ++
    [⟨h, readFrame a, answerFrame s (chanOf s h).cs⟩,
     ⟨h, readFrame a, answerFrame (exchange h (readFrame a) (flagAccess a .read s)) (chanOf s h).cs⟩] := by
  simp [readReg]

@[simp] theorem readReg_k (h : Nat) (a : Addr) : (readReg h a s).k = s.k + 2 := by simp [readReg]
@[simp] theorem readReg_draws (h : Nat) (a : Addr) : (readReg h a s).draws = s.draws + 2 := by simp [readReg]

@[simp] theorem readReg_status (h : Nat) (a : Addr) : (readReg h a s).status =
    { s.status with undefAccess := s.status.undefAccess || !checkAccess s.params a .read } := by simp [readReg]

/-- The first exchange of a read leaves the sample in the latch. -/
theorem devicePend_exchange_read (h : Nat) (a : Addr) (payload : Word) :
    devicePend (exchange h (readFrameWith a payload) s) (chanOf s h).cs = some (sampledValue s (chanOf s h).cs a) := by
  simp only [exchange, answer, devicePend_endExchange, deviceAct, frameIsWrite_readFrameWith, Bool.false_eq_true, if_false,
    frameAddr_readFrameWith, assertSelect_bus, devicePend_deviceRead_same, Option.some.injEq]
  simp [sampledValue]

/-- Flagging an access changes no sample. -/
@[simp] theorem sampledValue_flagAccess (a : Addr) (dir : AccessDir) (cs : Word) (a' : Addr) :
    sampledValue (flagAccess a dir s) cs a' = sampledValue s cs a' := by simp [sampledValue]

/-- The value of `ReadReg` is what the first request sampled (40_framer R104, R111). -/
theorem readReg_rdata (h : Nat) (a : Addr) : (readReg h a s).rdata = sampledValue s (chanOf s h).cs a := by
  have hp := devicePend_exchange_read (flagAccess a .read s) h a 0
  rw [chanOf_flagAccess, sampledValue_flagAccess] at hp
  simp only [readReg, latchRead_rdata, exchange_bus, chanOf_exchange, chanOf_flagAccess, answerFrame, framePayload_append,
    answerPayload, readFrame, hp]

/-- The value of `ReadReg` is bytes 1..4 of its second response (40_framer R111). -/
theorem readReg_rdata_eq_payload (h : Nat) (a : Addr) : (readReg h a s).rdata =
    framePayload (answerFrame (exchange h (readFrame a) (flagAccess a .read s)) (chanOf s h).cs) := by
  simp [readReg]

/-- What `ReadReg` leaves in the register it reads: 0 if reading clears it, else, at the reference device, the value read
(40_framer R123, 60_exceptions R230). -/
theorem deviceReg_readReg_same (h : Nat) (a : Addr) :
    (accessClass s.params a = .readOnlyClearOnRead → deviceReg (readReg h a s) (chanOf s h).cs a = some 0) ∧
    (s.oracle = .reference → accessClass s.params a ≠ .readOnlyClearOnRead →
      deviceReg (readReg h a s) (chanOf s h).cs a = some (readReg h a s).rdata) := by
  rw [readReg_rdata]
  constructor
  · intro hc
    simp [readReg, exchange, answer, deviceAct, readFrame, afterSample, hc]
  · intro ho hc
    have keep : ∀ v, afterSample s.params a v = v := by
      intro v; unfold afterSample; revert hc; cases accessClass s.params a <;> simp
    simp [readReg, exchange, answer, deviceAct, readFrame, keep, sampledValue, ho]

theorem deviceReg_readReg_ne (h : Nat) (a : Addr) (cs : Word) (a' : Addr)
    (hne : cs ≠ (chanOf s h).cs ∨ a' ≠ a) : deviceReg (readReg h a s) cs a' = deviceReg s cs a' := by
  rw [readReg, deviceReg_latchRead, deviceReg_exchange_ne _ _ _ _ _ (by simpa [readFrame] using hne),
    deviceReg_exchange_ne _ _ _ _ _ (by simpa [readFrame] using hne), deviceReg_flagAccess]

theorem devicePend_readReg_ne (h : Nat) (a : Addr) (cs : Word) (hne : cs ≠ (chanOf s h).cs) :
    devicePend (readReg h a s) cs = devicePend s cs := by
  rw [readReg, devicePend_latchRead, devicePend_exchange_ne _ _ _ _ (by simpa using hne),
    devicePend_exchange_ne _ _ _ _ (by simpa using hne), devicePend_flagAccess]

/-! ### Pre-check -/

/-- The pre-check passes exactly on a ready command (60_exceptions R213). -/
theorem precheck_none_of_ready {i : Instr} (h : Ready i s) : precheck i s = none := by
  have h1 : channelFailure i s = none := by
    unfold channelFailure
    split
    · rfl
    · next h' he => rw [if_neg (by have := h.channel _ he; omega)]
  have h2 : rangeFailure i s = none := by
    unfold rangeFailure
    split
    · rfl
    · next p he =>
      split
      · rfl
      · rfl
      · next hp => obtain ⟨h0, h1⟩ := h.range hp p he; rw [if_neg (by omega), if_neg (by omega)]
  have h3 : accessFailure i s = none := by
    unfold accessFailure
    split
    · next hc =>
      have : firstForbidden s.params (accessList s.params i) = none := by
        simp only [firstForbidden, List.find?_eq_none, Bool.not_eq_true', Bool.not_eq_false]
        exact h.access hc
      rw [this]
    · rfl
  simp [precheck, h1, h2, h3]

/-- A ready command runs its body. -/
theorem guarded_of_ready {i : Instr} {body : State → State} (h : Ready i s) : guarded i body s = .next (body s) := by
  simp [guarded, precheck_none_of_ready s h]

/-- A command either fails its pre-check or runs its body; it answers a next state in both cases. -/
theorem guarded_cases (i : Instr) (body : State → State) :
    (∃ c d, precheck i s = some (c, d) ∧ guarded i body s = .next (failedState c d s)) ∨
    (precheck i s = none ∧ guarded i body s = .next (body s)) := by
  unfold guarded
  cases hp : precheck i s with
  | none => exact .inr ⟨rfl, rfl⟩
  | some f => exact .inl ⟨f.1, f.2, rfl, rfl⟩

end Sys2Proof.Machine
end

