-- ==== Sys2Proof/Laws/PerInstr.lean ====
section
/-! SUPPORT. Family RowPattern: the code of every instruction matches its row of spec/opcode_table.json under the row's mask. -/

namespace Sys2Proof.Laws.RowPattern

/-- The mask and the match of an instruction's row in spec/opcode_table.json. -/
def row : Instr → Nat × Nat
  | .init _ => (0xC08000FF, 0x00000001)
  | .regWrite _ _ _ => (0xC08000FF, 0x00000002)
  | .regRead _ _ => (0xC08000FF, 0x00000003)
  | .fieldRead _ _ _ _ => (0xC08000FF, 0x00000004)
  | .fieldWrite _ _ _ _ _ => (0xC08000FF, 0x00000005)
  | .rotate _ _ => (0xC08000FF, 0x00000006)
  | .moveTo _ _ _ => (0xC08000FF, 0x00000007)
  | .moveBy _ _ _ => (0xC08000FF, 0x00000008)
  | .setDirection _ _ => (0xC08000FF, 0x00000009)
  | .setVelocity _ _ => (0xC08000FF, 0x0000000A)
  | .setAcceleration _ _ => (0xC08000FF, 0x0000000B)
  | .setPosition _ _ => (0xC08000FF, 0x0000000C)
  | .dgWrite _ _ => (0x8000000000, 0x8000000000)
  | .dgRead _ _ => (0x8000000000, 0x0000000000)

/-- The bits a row's pattern is about: `W0` of a descriptor, all of a frame. -/
def rowBits : Code → Nat
  | .descriptor d => d.w0.toNat
  | .frame f => f.toNat

/-- The encoded instruction matches its row. -/
def Statement (i : Instr) : Prop := rowBits (encode i) &&& (row i).1 = (row i).2

theorem controlWord_row (op : BitVec 4) (h : Nat) (a : Addr) (s : Nat) (fwd : Bool) :
    (controlWord op h a s fwd).toNat &&& 0xC08000FF = op.toNat := by
  have key : controlWord op h a s fwd &&& 0xC08000FF#32 = op.zeroExtend 32 := by
    apply BitVec.eq_of_getLsbD_eq
    intro i hi
    simp only [BitVec.getLsbD_and, controlWord, BitVec.getLsbD_append, BitVec.truncate_eq_setWidth, BitVec.getLsbD_setWidth]
    interval_cases i <;> simp
  have := congrArg BitVec.toNat key
  simpa [BitVec.toNat_and, Nat.mod_eq_of_lt (show op.toNat < 4294967296 by omega)] using this

theorem init (cs : Word) : Statement (.init cs) := controlWord_row _ _ _ _ _
theorem regWrite (h : Nat) (a : Addr) (v : Word) : Statement (.regWrite h a v) := controlWord_row _ _ _ _ _
theorem regRead (h : Nat) (a : Addr) : Statement (.regRead h a) := controlWord_row _ _ _ _ _
theorem fieldRead (h : Nat) (a : Addr) (s : Nat) (mask : Word) : Statement (.fieldRead h a s mask) :=
  controlWord_row _ _ _ _ _
theorem fieldWrite (h : Nat) (a : Addr) (s : Nat) (mask v : Word) : Statement (.fieldWrite h a s mask v) :=
  controlWord_row _ _ _ _ _
theorem rotate (h : Nat) (v : Word) : Statement (.rotate h v) := controlWord_row _ _ _ _ _
theorem moveTo (h : Nat) (pos vel : Word) : Statement (.moveTo h pos vel) := controlWord_row _ _ _ _ _
theorem moveBy (h : Nat) (delta vel : Word) : Statement (.moveBy h delta vel) := controlWord_row _ _ _ _ _
theorem setDirection (h : Nat) (fwd : Bool) : Statement (.setDirection h fwd) := controlWord_row _ _ _ _ _
theorem setVelocity (h : Nat) (p : Word) : Statement (.setVelocity h p) := controlWord_row _ _ _ _ _
theorem setAcceleration (h : Nat) (p : Word) : Statement (.setAcceleration h p) := controlWord_row _ _ _ _ _
theorem setPosition (h : Nat) (p : Word) : Statement (.setPosition h p) := controlWord_row _ _ _ _ _

theorem dgWrite (a : Addr) (v : Word) : Statement (.dgWrite a v) := by
  have key : writeFrame a v &&& 0x8000000000#40 = 0x8000000000#40 := by
    apply BitVec.eq_of_getLsbD_eq
    intro i hi
    simp only [BitVec.getLsbD_and, writeFrame, BitVec.getLsbD_append]
    interval_cases i <;> simp
  simpa [Statement, rowBits, row, encode] using congrArg BitVec.toNat key

theorem dgRead (a : Addr) (payload : Word) : Statement (.dgRead a payload) := by
  have key : readFrameWith a payload &&& 0x8000000000#40 = 0 := by
    apply BitVec.eq_of_getLsbD_eq
    intro i hi
    simp only [BitVec.getLsbD_and, readFrameWith, BitVec.getLsbD_append]
    interval_cases i <;> simp
  simpa [Statement, rowBits, row, encode] using congrArg BitVec.toNat key

end Sys2Proof.Laws.RowPattern
end

