-- ==== Sys2Proof/Laws/Step.lean ====
section
/-! SUPPORT. What an instruction and a step can do, said once: every command is the outcome of its pre-check, and a step is one
of five moves. -/

namespace Sys2Proof.Machine

/-- A command whose pre-check passes is ready. -/
theorem ready_of_precheck {i : Instr} {s : State} (h : precheck i s = none) : Ready i s := by
  unfold precheck at h
  split at h
  · cases h
  · next hc =>
    split at h
    · cases h
    · next hr =>
      refine ⟨fun h' he => ?_, fun hf p hp => ?_, fun hca e he => ?_⟩
      · simp only [channelFailure, he] at hc
        split at hc
        · cases hc
        · omega
      · simp only [rangeFailure, hp, hf] at hr
        split at hr
        · cases hr
        · split at hr
          · cases hr
          · omega
      · simp only [accessFailure, hca, if_true] at h
        split at h
        · next hn =>
          simp only [firstForbidden, List.find?_eq_none, Bool.not_eq_true', Bool.not_eq_false] at hn
          exact hn e he
        · cases h

/-- A good state and a command with no forbidden access make a run that is not faulted. -/
theorem unfaulted_of_permitted {i : Instr} {s : State} (hg : s.Good) (hf : forbiddenAccess i s = false) : Unfaulted i s := by
  refine ⟨hg, fun e he => ?_⟩
  simp only [forbiddenAccess, List.any_eq_false, Bool.not_eq_true', Bool.not_eq_false] at hf
  exact hf e he

/-- The failures a pre-check can name are outcomes of the table (60_exceptions R210), and none is `OK`. -/
theorem precheck_legal {i : Instr} {s : State} {c : StatusCode} {d : BitVec 4} (h : precheck i s = some (c, d)) :
    legalOutcome c d = true ∧ c ≠ .ok := by
  unfold precheck at h
  split at h
  · next hc =>
    unfold channelFailure at hc
    split at hc
    · cases hc
    · split at hc
      · cases hc; cases h; exact ⟨rfl, by decide⟩
      · cases hc
  · split at h
    · next hr =>
      unfold rangeFailure at hr
      repeat' split at hr
      all_goals cases hr
      all_goals cases h; exact ⟨rfl, by decide⟩
    · unfold accessFailure at h
      repeat' split at h
      all_goals cases h
      next e _ => exact ⟨by cases e.2 <;> rfl, by decide⟩

/-- What a command does once its pre-check has passed; for `INIT` all of it. -/
def bodyOf : Instr → State → State
  | .init cs => initBody cs
  | .regWrite h a v => bodyRegWrite h a v
  | .regRead h a => bodyRegRead h a
  | .fieldRead h a sh mask => bodyFieldRead h a sh mask
  | .fieldWrite h a sh mask v => bodyFieldWrite h a sh mask v
  | .rotate h v => bodyRotate h v
  | .moveTo h pos vel => bodyMoveTo h pos vel
  | .moveBy h delta vel => bodyMoveBy h delta vel
  | .setDirection h fwd => bodySetDirection h fwd
  | .setVelocity h p => bodySetVelocity h p
  | .setAcceleration h p => bodySetAcceleration h p
  | .setPosition h p => bodySetPosition h p
  | .dgWrite a v => answer (writeFrame a v)
  | .dgRead a payload => answer (readFrameWith a payload)

/-- `INIT` and the datagrams have no handle, no scaling input and no access list, so the pre-check passes on them. -/
theorem precheck_of_no_handle {i : Instr} (s : State) (h : handleOf i = none) : precheck i s = none := by
  cases i <;> simp_all [handleOf, precheck, channelFailure, rangeFailure, scalingInput, accessFailure, firstForbidden, accessList]

/-- The meaning of every instruction is its body behind its pre-check. -/
theorem exec_eq_guarded (i : Instr) (s : State) : exec i s = guarded i (bodyOf i) s := by
  cases i with
  | init cs => simp only [exec, execInit, guarded, precheck_of_no_handle s (i := .init cs) rfl, bodyOf]
  | dgWrite a v => simp only [exec, execDgWrite, guarded, precheck_of_no_handle s (i := .dgWrite a v) rfl, bodyOf]
  | dgRead a payload => simp only [exec, execDgRead, guarded, precheck_of_no_handle s (i := .dgRead a payload) rfl, bodyOf]
  | regWrite h a v => rfl
  | regRead h a => rfl
  | fieldRead h a sh mask => rfl
  | fieldWrite h a sh mask v => rfl
  | rotate h v => rfl
  | moveTo h pos vel => rfl
  | moveBy h delta vel => rfl
  | setDirection h fwd => rfl
  | setVelocity h p => rfl
  | setAcceleration h p => rfl
  | setPosition h p => rfl

/-- An instruction fails its pre-check and changes only `RESULT`, `STATUS`, phase and log, or runs its body; it answers a next
state in both cases. -/
theorem exec_cases (i : Instr) (s : State) :
    (∃ c d, legalOutcome c d = true ∧ c ≠ .ok ∧ precheck i s = some (c, d) ∧ exec i s = .next (failedState c d s)) ∨
    (precheck i s = none ∧ exec i s = .next (bodyOf i s)) := by
  rw [exec_eq_guarded]
  rcases guarded_cases s i (bodyOf i) with ⟨c, d, hp, h⟩ | h
  · exact .inl ⟨c, d, (precheck_legal hp).1, (precheck_legal hp).2, hp, h⟩
  · exact .inr h

/-- A ready command runs its body. -/
theorem exec_of_ready {i : Instr} {s : State} (h : Ready i s) : exec i s = .next (bodyOf i s) := by
  rw [exec_eq_guarded, guarded_of_ready s h]

/-- A step is one of five moves: a frame taken by its device, a command run, an illegal descriptor completed, the next part of
a command that `turn` has begun, or a host access. -/
theorem step_cases (s : State) :
    (s.bus.select = true ∧ step s = exec (decodeFrame s.bus.tx) s) ∨
    (s.bus.select = false ∧ s.phase = .busy ∧ s.k = 0 ∧ ∃ i, decodeCommand s.cmd = .ok i ∧ step s = exec i s) ∨
    (s.bus.select = false ∧ s.phase = .busy ∧ s.k = 0 ∧ ∃ r, decodeCommand s.cmd = .error r ∧
      step s = .next (raiseIllegal r s)) ∨
    (s.bus.select = false ∧ s.phase = .busy ∧ s.k ≠ 0 ∧ step s = .next (sequencerTurn s)) ∨
    (s.bus.select = false ∧ s.phase = .idle ∧ step s = .next (hostTurn s)) := by
  unfold step
  cases hb : s.bus.select with
  | true => exact .inl ⟨rfl, by simp⟩
  | false =>
    cases hp : s.phase with
    | idle => simp
    | busy =>
      by_cases hk : s.k = 0
      · cases hd : decodeCommand s.cmd with
        | error r => simp [hk]
        | ok i => simp [hk]
      · simp [hk]

/-- What every step keeps, every run keeps. -/
theorem run_keeps {P : State → Prop} (hstep : ∀ s t, step s = .next t → P s → P t) :
    ∀ (n : Nat) (s t : State), Host.Core.run Sys2Proof.core n s = .next t → P s → P t := by
  intro n
  induction n with
  | zero => intro s t h hs; cases h; exact hs
  | succ n ih =>
    intro s t h hs
    simp only [Host.Core.run] at h
    split at h
    · next s' h' => exact ih s' t h (hstep s s' h' hs)
    · cases h
    · cases h

/-- `answer` on the frame a datagram decodes to is `answer` on the frame itself (30_encoding R71). -/
theorem writeFrame_or_readFrame (f : Frame) :
    f = if frameIsWrite f then writeFrame (frameAddr f) (framePayload f) else readFrameWith (frameAddr f) (framePayload f) := by
  apply BitVec.eq_of_getLsbD_eq
  intro i hi
  cases hw : frameIsWrite f <;>
    simp only [if_true, if_false, Bool.false_eq_true, writeFrame, readFrameWith, frameAddr, framePayload,
      BitVec.getLsbD_append, BitVec.getLsbD_extractLsb']
  all_goals
    by_cases h1 : i < 32
    · simp [h1]
    · by_cases h2 : i < 39
      · simp [h1, show i - 32 < 7 by omega, show 32 + (i - 32) = i by omega]
      · have : i = 39 := by omega
        subst this
        simpa [frameIsWrite] using hw

end Sys2Proof.Machine
end

