-- ==== Sys2Proof/Tests/Slice0.lean ====
section
/-! SUPPORT. Tests: ill-formed terms refused, words of the spec decoded, vectors of 95_test_vectors run, and for every statement
with hypotheses a witness that meets them. Expected results are the spec's. -/

namespace Sys2Proof.Tests

open Sys2Proof Sys2Proof.Machine

/-! ### Helpers -/

/-- The test configuration after `init 0`, with reference devices and stated register contents (95_test_vectors section 0). -/
def board (regs : Memory) : State :=
  { State.reset with oracle := .reference, chans := [freshChannel 0, Channel.reset], allocCount := 1, regs := regs }

/-- The same with another parameter set. -/
def boardWith (p : Params) : State := { board [] with params := p }

/-- The test configuration with no permission check. -/
def unchecked : Params := { Params.testConfig with checkAccess := false }

/-- The test configuration with a `ReadOnly` register at 0x04 and a `ReadOnlyClearOnRead` one at 0x05. -/
def withFlags : Params :=
  { Params.testConfig with regTable := (0x04, ⟨.readOnly, some 0⟩) :: (0x05, ⟨.readOnlyClearOnRead, some 0⟩) :: defaultRegTable }

/-- CHOPCONF as a `ReadWriteSplit` register. -/
def splitConfig : Params := { Params.testConfig with regTable := [(0x6C, ⟨.readWriteSplit, some 0⟩)] }

/-- The test configuration with a `ReadOnlyClearOnRead` XACTUAL. -/
def flagPosition : Params :=
  { Params.testConfig with regTable := (0x21, ⟨.readOnlyClearOnRead, some 0⟩) :: defaultRegTable }

/-- A busy block that has latched a descriptor. -/
def latched (d : Descriptor) (s : State) : State := submitted d s

/-- The next state, if there is one. -/
def nextOf (o : Host.Outcome State Fault Refusal) : Option State :=
  match o with
  | .next t => some t
  | .fault _ => none
  | .refused _ => none

/-- The frames sent, the status word and the result. -/
def traceOf (o : Host.Outcome State Fault Refusal) : Option (List Frame × Word × Word) :=
  (nextOf o).map (fun t => (t.history.map BusEvent.tx, statusWord t.status, t.result))

/-- The entry of channel 0. -/
def entryOf (o : Host.Outcome State Fault Refusal) : Option Channel := (nextOf o).map (fun t => chanOf t 0)

/-! ### WellFormed: an ill-formed term for each check -/

theorem test_handle_too_wide_refused :
    ∀ i ∈ [Instr.regWrite 256 0 0, .regRead 256 0, .fieldRead 256 0 0 0, .fieldWrite 256 0 0 0 0, .rotate 256 0, .moveTo 256 0 0,
      .moveBy 256 0 0, .setDirection 256 true, .setVelocity 256 0, .setAcceleration 256 0, .setPosition 256 0],
      i.wf = false := by decide

theorem test_shift_too_wide_refused : ∀ i ∈ [Instr.fieldRead 0 0 32 0, .fieldWrite 0 0 32 0 0], i.wf = false := by decide

theorem test_widest_operands_admitted :
    ∀ i ∈ [Instr.regRead 255 0x7F, .fieldRead 255 0x7F 31 0, .fieldWrite 255 0x7F 31 0 0, .init 0xFFFFFFFF], i.wf = true := by decide

theorem test_parameters_out_of_range_refused :
    ∀ p ∈ [{ Params.testConfig with maxChannels := 0 }, { Params.testConfig with maxChannels := 257 },
      { Params.testConfig with numCS := 0 }, { Params.testConfig with numCS := 2 ^ 32 },
      { Params.testConfig with maxVelocity := 2 ^ 31 }, { Params.testConfig with maxAcceleration := 2 ^ 31 },
      { Params.testConfig with maxPosition := 2 ^ 31 },
      { Params.testConfig with regTable := [(0x01, ⟨.none, some 0⟩)] },
      { Params.testConfig with regTable := [(0x01, ⟨.readOnly, none⟩), (0x01, ⟨.readWrite, none⟩)] },
      { Params.testConfig with addr := { AddrMap.default with v1 := 0x27 } }],
      p.wf = false := by decide

theorem test_configuration_admitted : Params.testConfig.wf = true := by decide

/-! ### Decode: a word for every constructor, from the layout of 30_encoding R76 and the vectors of 95_test_vectors -/

/-- Fields left to right: reserved, `FWD`, `SHIFT`, reserved, `ADDR`, `CH`, reserved, `OP` (30_encoding R76). -/
theorem test_decode_by_fields :
    decodeCommand ⟨0b00_1_00000_0_0000000_00000010_0000_1001, 0, 0⟩ = .ok (.setDirection 2 true) ∧
    decodeCommand ⟨0b00_0_00100_0_1101100_00000011_0000_0101, 0xF, 5⟩ = .ok (.fieldWrite 3 0x6C 4 0xF 5) := by decide

/-- V1.3, V1.4, V1.8, V2.2, V2.4, V2.6 and P3. -/
theorem test_decode_commands :
    ∀ e ∈ ([(⟨0x00000001, 3, 0⟩, .init 3), (⟨0x00000002, 0x80000000, 0⟩, .regWrite 0 0x00 0x80000000),
      (⟨0x00210003, 0, 0⟩, .regRead 0 0x21), (⟨0x046C0004, 0xF, 0⟩, .fieldRead 0 0x6C 4 0xF),
      (⟨0x046C0005, 0xF, 0x13⟩, .fieldWrite 0 0x6C 4 0xF 0x13), (⟨0x00000006, 0xFFFFFED4, 0⟩, .rotate 0 (BitVec.ofInt 32 (-300))),
      (⟨0x00000007, 0xFFFFFFD6, 0x3E8⟩, .moveTo 0 (BitVec.ofInt 32 (-42)) 1000), (⟨0x00000008, 0x1F4, 0x3E8⟩, .moveBy 0 500 1000),
      (⟨0x00000009, 0, 0⟩, .setDirection 0 false), (⟨0x20000009, 0, 0⟩, .setDirection 0 true),
      (⟨0x0000000A, 0x32, 0⟩, .setVelocity 0 50), (⟨0x0000010B, 0x19, 0⟩, .setAcceleration 1 25),
      (⟨0x0000010C, 0x64, 0⟩, .setPosition 1 100)] : List (Descriptor × Instr)),
      decodeCommand e.1 = .ok e.2 := by decide

/-- V2.4 #16: unused fields and `W2` are ignored. -/
theorem test_decode_unused_fields : decodeCommand ⟨0x3F000006, 0xA, 0x1234⟩ = .ok (.rotate 0 10) := by decide

/-- V2.6 #6 to #8. -/
theorem test_decode_reserved_opcode :
    decodeCommand ⟨0x00000000, 0, 0⟩ = .error .reservedOpcode ∧ decodeCommand ⟨0x0000000D, 0, 0⟩ = .error .reservedOpcode ∧
    decodeCommand ⟨0x0000001D, 0, 0⟩ = .error .reservedOpcode := ⟨rfl, rfl, rfl⟩

/-- V2.6 #9 to #12 and #14. -/
theorem test_decode_reserved_bits :
    decodeCommand ⟨0x00000016, 0, 0⟩ = .error .reservedBits ∧ decodeCommand ⟨0x80000006, 0, 0⟩ = .error .reservedBits ∧
    decodeCommand ⟨0x00800003, 0, 0⟩ = .error .reservedBits ∧ decodeCommand ⟨0x40000001, 0, 0⟩ = .error .reservedBits ∧
    decodeCommand ⟨0x00000216, 0, 0⟩ = .error .reservedBits := by decide

/-- V2.1. -/
theorem test_decode_datagrams :
    decodeFrame 0xEC10410150 = .dgWrite 0x6C 0x10410150 ∧ decodeFrame 0x7F00000000 = .dgRead 0x7F 0 ∧
    decodeFrame 0xFFFFFFFFFF = .dgWrite 0x7F 0xFFFFFFFF ∧ decodeFrame 0x0000000000 = .dgRead 0 0 := by decide

/-- V2.1, the other way. -/
theorem test_encode_datagrams :
    writeFrame 0x27 (BitVec.ofInt 32 (-1)) = 0xA7FFFFFFFF ∧ writeFrame 0x2D 0x80000000 = 0xAD80000000 ∧
    readFrame 0x7F = 0x7F00000000 ∧ framePayload 0x00DEADBEEF = 0xDEADBEEF ∧
    (framePayload 0x00DEADBEEF).toInt = -559038737 := by decide

/-- The opcode table's numbering: bit 0 is the least significant of the first word; bytes of a datagram likewise. -/
theorem test_decode_table_words :
    decodeTableWord 32 0x00210003 = some (.regRead 0 0x21) ∧ decodeTableWord 32 0x0000000D = none ∧
    decodeTableWord 40 0xA70000012C = some (.dgWrite 0x27 300) := by decide

/-- V2.4 #5 to #8: the pseudo-commands. -/
theorem test_pseudo_commands :
    pseudoRight 0 0xFFFFFFFB = .rotate 0 0xFFFFFFFB ∧ pseudoLeft 0 5 = .rotate 0 0xFFFFFFFB ∧
    pseudoLeft 0 0xFFFFFFFB = .rotate 0 5 ∧ pseudoLeft 0 0x80000000 = .rotate 0 0x80000000 ∧
    pseudoStop 0 = .rotate 0 0 := by decide

/-! ### Fields and scaling: the tables V2.3 and V2.5.1 -/

theorem test_field_get :
    ∀ e ∈ ([(0x10410150, 0xF, 4, 0x5), (0xFFFFFFFF, 0x1, 31, 0x1), (0x80000000, 0xFFFFFFFF, 31, 0x1), (0x12345678, 0, 8, 0)] :
      List (Word × Word × Nat × Word)), fieldGet e.1 e.2.1 e.2.2.1 = e.2.2.2 := by decide

theorem test_field_set :
    fieldSet 0x10410150 0xF 4 3 = 0x10410130 ∧ fieldSet 0x12345678 0xFF 8 0xAB = 0x1234AB78 ∧
    fieldSet 0 0xFF 28 0xAB = 0xB0000000 ∧ fieldSet 0xAAAAAAAA 0x1 31 0x2 = 0x2AAAAAAA := by decide

theorem test_scale :
    ∀ e ∈ ([(50, 1, 1), (50, 3, 2), (7, 7, 0), (10, 7, 1), (1, 149, 1), (1, 150, 2), (-50, 1, 0xFFFFFFFF),
      (50, 2147483647, 0x40000000), (100, 2147483647, 0x7FFFFFFF)] : List (Int × Nat × Word)),
      scale e.1 e.2.1 = e.2.2 := by decide

/-! ### Instructions -/

/-- V2.6 #1. -/
theorem test_init_allocates :
    traceOf (exec (.init 3) State.reset) = some ([], 0x002, 0) ∧ entryOf (exec (.init 3) State.reset) = some (freshChannel 3) := by
  decide

/-- V2.6 #2 and #4. -/
theorem test_init_fails :
    traceOf (exec (.init 4) State.reset) = some ([], 0x212, 0) ∧
    traceOf (exec (.init 9) { board [] with allocCount := 2 }) = some ([], 0x112, 0) := by decide

/-- V2.2 #1. -/
theorem test_reg_write : traceOf (exec (.regWrite 0 0x00 0x80000000) (board [])) = some ([0x8080000000], 0x002, 0) := by decide

/-- V2.2 #5. -/
theorem test_reg_write_forbidden : traceOf (exec (.regWrite 0 0x7E 1) (board [])) = some ([], 0x232, 0) := by decide

/-- V2.2 #2. -/
theorem test_reg_read : traceOf (exec (.regRead 0 0x21) (board [(0x21, 0xFFFFFC18)])) =
    some ([0x2100000000, 0x2100000000], 0x002, 0xFFFFFC18) := by decide

/-- V2.2 #6: unchecked, the access runs and faults the run. -/
theorem test_reg_read_unchecked : traceOf (exec (.regRead 0 0x27) { board [(0x27, 7)] with params := unchecked }) =
    some ([0x2700000000, 0x2700000000], 0x00010002, 7) := by decide

/-- V1.3. -/
theorem test_field_read : traceOf (exec (.fieldRead 0 0x6C 4 0xF) (board [(0x6C, 0x10410130)])) =
    some ([0x6C00000000, 0x6C00000000], 0x002, 3) := by decide

/-- V1.3. -/
theorem test_field_write : traceOf (exec (.fieldWrite 0 0x6C 4 0xF 0x13) (board [(0x6C, 0x10410150)])) =
    some ([0x6C00000000, 0x6C00000000, 0xEC10410130], 0x002, 0) := by decide

/-- V2.3 command 5: the read is permitted, the write is not. -/
theorem test_field_write_read_only : traceOf (exec (.fieldWrite 0 0x04 0 1 1) (boardWith withFlags)) = some ([], 0x232, 0) := by
  decide

/-- V1.7. -/
theorem test_rotate : traceOf (exec (.rotate 0 (BitVec.ofInt 32 (-300))) (board [])) =
    some ([0xA70000012C, 0xA000000002], 0x002, 0) := by decide

/-- V2.4 #3. -/
theorem test_rotate_most_negative : traceOf (exec (.rotate 0 0x80000000) (board [])) =
    some ([0xA780000000, 0xA000000002], 0x002, 0) := by decide

/-- V1.8. -/
theorem test_move_to : traceOf (exec (.moveTo 0 (BitVec.ofInt 32 (-42)) 1000) (board [])) =
    some ([0xA000000000, 0xA7000003E8, 0xADFFFFFFD6], 0x002, 0) := by decide

/-- V1.5. -/
theorem test_move_by : traceOf (exec (.moveBy 0 500 1000) (board [(0x21, 1000)])) =
    some ([0x2100000000, 0x2100000000, 0xA000000000, 0xA7000003E8, 0xAD000005DC], 0x002, 1500) := by decide

/-- V2.4 #11. -/
theorem test_move_by_wraps :
    (nextOf (exec (.moveBy 0 1 10) (board [(0x21, 0x7FFFFFFF)]))).map State.result = some 0x80000000 := by decide

/-- V1.4. -/
theorem test_set_direction_reverse :
    traceOf (exec (.setDirection 0 false) (board [])) = some ([0xA700000000, 0xA000000002], 0x002, 0) ∧
    entryOf (exec (.setDirection 0 false) (board [])) =
      some { freshChannel 0 with ramp := .mode .velocityNegative, dir := .reverse } := by decide

/-- V1.4. -/
theorem test_set_direction_forward :
    traceOf (exec (.setDirection 0 true) (board [])) = some ([0xA700000000, 0xA000000001], 0x002, 0) := by decide

/-- V2.5.2 #3. -/
theorem test_set_velocity : traceOf (exec (.setVelocity 0 50) (boardWith { Params.testConfig with maxVelocity := 10 })) =
    some ([0xA700000005, 0xA500000001], 0x002, 0) := by decide

/-- V2.5.2 #10. -/
theorem test_set_velocity_negative :
    traceOf (exec (.setVelocity 0 0xFFFFFFFF) (boardWith { Params.testConfig with policy := .pass })) =
      some ([0xA7FFFFF830, 0xA5FFFFFE0C], 0x002, 0) := by decide

/-- V2.5.2 #11. -/
theorem test_set_acceleration : traceOf (exec (.setAcceleration 0 25) (board [])) =
    some ([0xA6000000FA, 0xA4000001F4], 0x002, 0) := by decide

/-- V2.5.2 #13. -/
theorem test_set_acceleration_wraps :
    traceOf (exec (.setAcceleration 0 50) (boardWith { Params.testConfig with maxAcceleration := 2147483647 })) =
      some ([0xA640000000, 0xA480000000], 0x002, 0) := by decide

/-- V2.5.2 #15. -/
theorem test_set_position :
    traceOf (exec (.setPosition 0 50) { board [] with chans := [{ freshChannel 0 with dir := .reverse, vmax := 100000 }] }) =
      some ([0xA000000000, 0xA7000186A0, 0xADFFFF9C00], 0x002, 0) := by decide

/-- V2.5.2 #5 and #6. -/
theorem test_range_error :
    traceOf (exec (.setVelocity 0 101) (board [])) = some ([], 0x252, 0) ∧
    traceOf (exec (.setPosition 0 0xFFFFFFFF) (board [])) = some ([], 0x152, 0) := by decide

/-- V2.6 #15 and #16: the channel is looked at before the range. -/
theorem test_bad_channel :
    traceOf (exec (.setVelocity 5 200) (board [])) = some ([], 0x122, 0) ∧
    traceOf (exec (.rotate 255 0) { board [] with allocCount := 2 }) = some ([], 0x122, 0) := by decide

/-- 40_framer R122 and 60_exceptions R230: the register takes the payload, the latch echoes it. -/
theorem test_dg_write :
    (nextOf (exec (.dgWrite 0x27 5) (board []))).map (fun t => (deviceReg t 0 0x27, devicePend t 0, deviceReg t 1 0x27)) =
      some (some 5, some 5, some 0) := by decide

/-- 40_framer R123 and 20_memory R59: the latch takes the sample, and reading clears the register. -/
theorem test_dg_read :
    (nextOf (exec (.dgRead 0x05 0x1234) { board [(0x05, 9)] with params := withFlags })).map
      (fun t => (devicePend t 0, deviceReg t 0 0x05)) = some (some 9, some 0) := by decide

/-! ### Steps -/

/-- P1, first command: the host's three writes and the run of the command, from reset. -/
theorem test_program_starts :
    traceOf (Host.Core.run Sys2Proof.core 4 { State.reset with host := submission ⟨0x00000001, 0, 0⟩ }) =
      some ([], 0x002, 0) := by decide

/-- V2.6 #9 at a step. -/
theorem test_step_illegal : traceOf (step (latched ⟨0x00000016, 0, 0⟩ (board []))) = some ([], 0x242, 0) := by decide

/-- An instruction placed by `withFetchWord` is the next step's. -/
theorem test_fetch_word :
    traceOf (step ((board []).withFetchWord 32 0x00000009)) = some ([0xA700000000, 0xA000000002], 0x002, 0) ∧
    (nextOf (step ((board []).withFetchWord 40 0xA70000012C))).map (fun t => deviceReg t 0 0x27) = some (some 300) := by decide

/-- V1.5, exchange by exchange. -/
theorem test_agent_moves :
    ((turns (commandTurns 5) (latched ⟨0x00000008, 0x1F4, 0x3E8⟩ (board [(0x21, 1000)]))).result,
      (turns (commandTurns 5) (latched ⟨0x00000008, 0x1F4, 0x3E8⟩ (board [(0x21, 1000)]))).phase) = (1500, .idle) := by decide

/-- Between the exchanges of a FIELD_WRITE the block is busy, two exchanges done and one to go, and the devices may move
(41_field R136). -/
theorem test_field_write_not_atomic :
    let t := turns [.sequencer, .device, .sequencer, .device] (latched ⟨0x006C0005, 0xF, 5⟩ (board [(0x6C, 0x10)]))
    (t.k, t.phase, t.bus.select, framePayload t.bus.rx) = (2, .busy, false, 0x10) := by decide

/-! ### Witnesses: states and operands that meet the hypotheses of each statement -/

/-- Ready and not faulted: what the statements about results ask. -/
def runs (i : Instr) (s : State) : Prop := Ready i s ∧ Unfaulted i s

/-- A command whose pre-check passes, with no forbidden access, in a good state. -/
theorem runs_of {i : Instr} {s : State} (h : precheck i s = none) (hg : s.status.undefAccess = false)
    (hf : forbiddenAccess i s = false) : runs i s := ⟨ready_of_precheck h, unfaulted_of_permitted hg hf⟩

theorem witness_DecodeOfEncode : (Instr.fieldWrite 255 0x7F 31 0xFFFFFFFF 0xFFFFFFFF).wf = true := by decide

/-- Every opcode, the reserved ones at both ends, with no reserved bit, and a defined one with a reserved bit. -/
theorem witness_DescriptorDecoding :
    (∀ op, op < 16 → (BitVec.ofNat 32 op).toNat % 16 = op ∧ BitVec.ofNat 32 op &&& 0xC08000F0 = 0) ∧
    (0x10 + 1 : Word).toNat % 16 = 1 ∧ (0x10 + 1 : Word) &&& 0xC08000F0 ≠ 0 ∧
    (0x8000000C : Word).toNat % 16 = 0xC ∧ (0x8000000C : Word) &&& 0xC08000F0 ≠ 0 :=
  ⟨fun op h => by interval_cases op <;> decide, by decide, by decide, by decide, by decide⟩

theorem witness_FrameBytesAndBitOrder : 0 < 40 ∧ 39 < 40 := by decide

theorem witness_LeftReversesRight : (1 : Word) ≠ 0 ∧ (1 : Word) ≠ 0x80000000 := by decide

theorem witness_SubmissionLatchesDescriptor :
    State.reset.status.undefAccess = false ∧ State.reset.status.busy = false ∧
    (latched ⟨1, 0, 0⟩ State.reset).status.undefAccess = false ∧ (latched ⟨1, 0, 0⟩ State.reset).status.busy = true := by decide

theorem witness_HostRegisterMap : State.reset.status.undefAccess = false ∧ 6 ≤ 6 ∧ 3 ≤ 3 := by decide

theorem witness_StepRunsDecodedInstruction :
    ((board []).withFrame 0).status.undefAccess = false ∧ ((board []).withDescriptor ⟨6, 5, 0⟩).status.undefAccess = false ∧
    (board []).status.undefAccess = false ∧
    ((board []).withFrame 0).bus.select = true ∧
    ((board []).withDescriptor ⟨6, 5, 0⟩).bus.select = false ∧ ((board []).withDescriptor ⟨6, 5, 0⟩).phase = .busy ∧
    ((board []).withDescriptor ⟨6, 5, 0⟩).k = 0 ∧ decodeCommand ((board []).withDescriptor ⟨6, 5, 0⟩).cmd = .ok (.rotate 0 5) ∧
    (board []).bus.select = false ∧ (board []).phase = .idle := by decide

theorem witness_IllegalDescriptorFails :
    (∀ d, (latched d (board [])).bus.select = false ∧ (latched d (board [])).phase = .busy ∧ (latched d (board [])).k = 0 ∧
      (latched d (board [])).cmd = d ∧ (latched d (board [])).status.undefAccess = false) ∧
    (0x0 : Word).toNat % 16 ∈ [0x0, 0xD, 0xE, 0xF] ∧ (0xFFFFFFFF : Word).toNat % 16 ∈ [0x0, 0xD, 0xE, 0xF] ∧
    1 ≤ (0x11 : Word).toNat % 16 ∧ (0x11 : Word) &&& 0xC08000F0 ≠ 0 ∧
    (0x4000000C : Word).toNat % 16 ≤ 0xC ∧ (0x4000000C : Word) &&& 0xC08000F0 ≠ 0 :=
  ⟨fun _ => ⟨rfl, rfl, rfl, rfl, rfl⟩, by decide, by decide, by decide, by decide, by decide, by decide⟩

theorem witness_SubmittedDescriptorRuns :
    ({ State.reset with host := submission ⟨1, 0, 0⟩ ++ [HostAccess.read 4] }).status.undefAccess = false ∧
    ({ State.reset with host := submission ⟨1, 0, 0⟩ ++ [HostAccess.read 4] }).bus.select = false ∧
    ({ State.reset with host := submission ⟨1, 0, 0⟩ ++ [HostAccess.read 4] }).phase = .idle ∧
    ({ State.reset with host := submission ⟨1, 0, 0⟩ ++ [HostAccess.read 4] }).status.busy = false ∧
    decodeCommand ⟨1, 0, 0⟩ = .ok (.init 0) := by decide

theorem witness_FetchedWordRuns :
    State.reset.status.undefAccess = false ∧
    (Instr.setDirection 2 false).wf = true ∧ encode (.setDirection 2 false) = .descriptor ⟨0x00000209, 0, 0⟩ ∧
    (Instr.dgRead 0x7F 0).wf = true ∧ encode (.dgRead 0x7F 0) = .frame 0x7F00000000 := by decide

theorem witness_OutsideMovesLeaveTheBlock :
    (latched ⟨1, 0, 0⟩ (board [])).status.undefAccess = false ∧ State.reset.status.undefAccess = false ∧
    (latched ⟨1, 0, 0⟩ (board [])).status.busy = true ∧ State.reset.oracle = .free ∧ ((1 : Word) ≠ 0 ∨ (0x21 : Addr) ≠ 0x21) := by
  decide

/-- The table full, with a valid and an invalid chip-select; the first invalid one; the last valid one. -/
theorem witness_InitAllocates :
    (board []).status.undefAccess = false ∧ ({ board [] with allocCount := 2 }).status.undefAccess = false ∧
    ({ board [] with allocCount := 2 }).allocCount.toNat = ({ board [] with allocCount := 2 }).params.maxChannels ∧
    (board []).allocCount.toNat ≠ (board []).params.maxChannels ∧ (board []).params.numCS ≤ (4 : Word).toNat ∧
    (3 : Word).toNat < (board []).params.numCS := by decide

/-- At the reference device; at a free device on a class that settles, and on a `ReadWriteSplit` register. -/
theorem witness_RegWriteSendsValue :
    runs (.regWrite 0 0x00 5) (board []) ∧ WriteSettles (board []) 0x00 ∧
    runs (.regWrite 0 0x27 5) { boardWith unchecked with oracle := .free } ∧
    WriteSettles { boardWith unchecked with oracle := .free } 0x27 ∧
    runs (.regWrite 0 0x6C 5) { boardWith splitConfig with oracle := .free } :=
  ⟨runs_of (by decide) (by decide) (by decide), .inl rfl, runs_of (by decide) (by decide) (by decide), .inr (by decide),
    runs_of (by decide) (by decide) (by decide)⟩

theorem witness_RegReadReturnsSecondResponse :
    runs (.regRead 0 0x21) (board []) ∧ runs (.regRead 0 0x05) (boardWith withFlags) ∧
    accessClass withFlags 0x05 = .readOnlyClearOnRead ∧ (board []).oracle = .reference ∧
    accessClass Params.testConfig 0x21 ≠ .readOnlyClearOnRead :=
  ⟨runs_of (by decide) (by decide) (by decide), runs_of (by decide) (by decide) (by decide), by decide⟩

theorem witness_FieldReadReturnsField :
    runs (.fieldRead 0 0x6C 31 1) (board []) ∧ runs (.fieldRead 0 0x05 0 0) (boardWith withFlags) :=
  ⟨runs_of (by decide) (by decide) (by decide), runs_of (by decide) (by decide) (by decide)⟩

theorem witness_FieldWriteMergesField :
    runs (.fieldWrite 0 0x6C 28 0xFF 0xAB) (board []) ∧ WriteSettles (board []) 0x6C :=
  ⟨runs_of (by decide) (by decide) (by decide), .inl rfl⟩

/-- Every write settles at the reference device, whatever the register: the addresses of the motion and scaling commands too. -/
theorem witness_WriteSettles : ∀ a, WriteSettles (board []) a := fun _ => .inl rfl

/-- 20_memory R60: at a free device what a write leaves in a `ReadWriteSplit` register is a free value. -/
theorem test_split_write_is_free (v : Word) :
    writtenValue { boardWith splitConfig with oracle := .free } 0 0x6C v = Config.splitWrite 0 0x6C v :=
  writtenValue_of_split _ 0 v rfl (by decide)

theorem witness_RotateWritesSpeedThenMode :
    runs (.rotate 0 0x80000000) (board []) ∧ (board []).params.addr.vmax ≠ (board []).params.addr.rampmode :=
  ⟨runs_of (by decide) (by decide) (by decide), by decide⟩

theorem witness_MoveToWritesModeSpeedTarget :
    runs (.moveTo 0 0x7FFFFFFF 0xFFFFFFFF) (board []) ∧ (board []).params.addr.vmax ≠ (board []).params.addr.xtarget ∧
    (board []).params.addr.rampmode ≠ (board []).params.addr.vmax ∧
    (board []).params.addr.rampmode ≠ (board []).params.addr.xtarget :=
  ⟨runs_of (by decide) (by decide) (by decide), by decide⟩

theorem witness_MoveByAddsToActualPosition :
    runs (.moveBy 0 1 10) (board [(0x21, 0x7FFFFFFF)]) ∧
    (board []).params.addr.xactual ∉
      [(board []).params.addr.rampmode, (board []).params.addr.vmax, (board []).params.addr.xtarget] ∧
    accessClass (board []).params (board []).params.addr.xactual ≠ .readOnlyClearOnRead ∧
    runs (.moveBy 0 1 10) (boardWith flagPosition) ∧ accessClass flagPosition flagPosition.addr.xactual = .readOnlyClearOnRead :=
  ⟨runs_of (by decide) (by decide) (by decide), by decide, by decide, runs_of (by decide) (by decide) (by decide), by decide⟩

theorem witness_SetDirectionZeroesSpeedFirst : runs (.setDirection 0 false) (board []) ∧ runs (.setDirection 0 true) (board []) :=
  ⟨runs_of (by decide) (by decide) (by decide), runs_of (by decide) (by decide) (by decide)⟩

/-- Under `FAIL` the ends of the range; under `PASS` and `CLAMP` inputs next to it. -/
theorem witness_SetVelocityWritesSpeedAndQuarter :
    runs (.setVelocity 0 0) (board []) ∧ runs (.setVelocity 0 100) (board []) ∧
    runs (.setVelocity 0 0xFFFFFFFF) (boardWith { Params.testConfig with policy := .pass }) ∧
    runs (.setVelocity 0 101) (boardWith { Params.testConfig with policy := .clamp }) ∧
    (board []).params.addr.vmax ≠ (board []).params.addr.v1 :=
  ⟨runs_of (by decide) (by decide) (by decide), runs_of (by decide) (by decide) (by decide), runs_of (by decide) (by decide) (by decide),
    runs_of (by decide) (by decide) (by decide), by decide⟩

theorem witness_SetAccelerationWritesValueAndDouble :
    runs (.setAcceleration 0 100) (board []) ∧ (board []).params.addr.amax ≠ (board []).params.addr.a1 :=
  ⟨runs_of (by decide) (by decide) (by decide), by decide⟩

theorem witness_SetPositionMovesBySignedScale :
    runs (.setPosition 0 50) { board [] with chans := [{ freshChannel 0 with dir := .reverse, vmax := 100000 }] } :=
  runs_of (by decide) (by decide) (by decide)

/-- A class that settles; a `ReadWriteSplit` register, at the reference device and at a free one. -/
theorem witness_DatagramWriteSetsRegister :
    (board []).status.undefAccess = false ∧
    accessClass (board []).params 0x27 ∈ [AccessClass.readWrite, .writeOnly, .writeOnlyHardwarePreset, .readWriteSplit] ∧
    accessClass (board []).params 0x27 ≠ .readWriteSplit ∧ (boardWith splitConfig).status.undefAccess = false ∧
    accessClass splitConfig 0x6C = .readWriteSplit ∧ (boardWith splitConfig).oracle = .reference ∧
    ({ boardWith splitConfig with oracle := .free }).status.undefAccess = false := by decide

theorem witness_DatagramReadSamplesRegister :
    (boardWith withFlags).status.undefAccess = false ∧ (boardWith withFlags).oracle = .reference ∧
    accessClass withFlags 0x05 ∈ [AccessClass.readOnly, .readWrite, .readWriteSplit, .readOnlyClearOnRead] := by decide

theorem witness_UnallocatedChannelFails :
    (board []).status.undefAccess = false ∧
    handleOf (.rotate 1 0) = some 1 ∧ (board []).allocCount.toNat ≤ 1 ∧ handleOf (.regRead 255 0) = some 255 := by decide

/-- The inputs next to the range on either side. -/
theorem witness_OutOfRangeInputFails :
    ChannelReady (.setVelocity 0 0xFFFFFFFF) (board []) ∧ ChannelReady (.setVelocity 0 101) (board []) ∧
    scalingInput (.setVelocity 0 101) = some 101 ∧ (board []).params.policy = .fail ∧ (0xFFFFFFFF : Word).toInt < 0 ∧
    100 < (101 : Word).toInt ∧ (board []).Good :=
  ⟨fun _ h => (by cases h; decide), fun _ h => (by cases h; decide), by decide, by decide, by decide, by decide, rfl⟩

/-- A forbidden read, and a forbidden write after a permitted read. -/
theorem witness_ForbiddenAccessFails :
    ChannelReady (.regRead 0 0x27) (board []) ∧ RangeReady (.regRead 0 0x27) (board []) ∧
    accessList (board []).params (.regRead 0 0x27) = [] ++ (0x27, .read) :: [] ∧
    checkAccess (board []).params 0x27 .read = false ∧ (board []).params.checkAccess = true ∧
    ChannelReady (.fieldWrite 0 0x04 0 1 1) (boardWith withFlags) ∧ RangeReady (.fieldWrite 0 0x04 0 1 1) (boardWith withFlags) ∧
    accessList withFlags (.fieldWrite 0 0x04 0 1 1) = [(0x04, .read)] ++ (0x04, .write) :: [] ∧
    checkAccess withFlags 0x04 .read = true ∧ checkAccess withFlags 0x04 .write = false ∧ (board []).Good ∧
    (boardWith withFlags).Good :=
  ⟨fun _ h => (by cases h; decide), nofun, by decide, by decide, by decide, fun _ h => (by cases h; decide),
    nofun, by decide, by decide, by decide, rfl, rfl⟩

theorem witness_FailureIsPrecise :
    ∃ t, (Instr.rotate 1 0).isCommand = true ∧ exec (.rotate 1 0) (board []) = .next t ∧ t.Good ∧
      t.status.code ≠ .ok := ⟨_, rfl, rfl, rfl, by decide⟩

theorem witness_AllExchangesOrNone :
    ∃ t u, exec (.rotate 0 5) (board []) = .next t ∧ t.Good ∧ t.status.code = .ok ∧ t.k = 2 ∧
      exec (.rotate 1 5) (board []) = .next u ∧ u.Good ∧ u.status.code ≠ .ok ∧ u.k = 0 :=
  ⟨_, _, rfl, rfl, by decide, by decide, rfl, rfl, by decide, by decide⟩

theorem witness_EveryCommandCompletes :
    ∃ t, (board []).Good ∧ (Instr.moveBy 0 1 1).isCommand = true ∧ exec (.moveBy 0 1 1) (board []) = .next t ∧ t.Good :=
  ⟨_, rfl, rfl, rfl, rfl⟩

theorem witness_CheckedCommandsStayGood :
    ∃ t, (board []).params.checkAccess = true ∧ exec (.rotate 0 5) (board []) = .next t ∧ (board []).Good := ⟨_, rfl, rfl, rfl⟩

/-- A listed address and an unlisted one. -/
theorem witness_PermissionMatrix :
    Params.testConfig.wf = true ∧ ((0x27 : Addr), (⟨.writeOnly, some 0⟩ : RegEntry)) ∈ Params.testConfig.regTable ∧
    ∀ e ∈ Params.testConfig.regTable, e.1 ≠ (0x7E : Addr) := by decide

/-- A forbidden read, and a forbidden write of a motion command's own register. -/
theorem witness_UncheckedViolationFaultsRun :
    Ready (.regRead 0 0x27) (boardWith unchecked) ∧ forbiddenAccess (.regRead 0 0x27) (boardWith unchecked) = true ∧
    Ready (.rotate 0 5) (boardWith { unchecked with regTable := [] }) ∧
    forbiddenAccess (.rotate 0 5) (boardWith { unchecked with regTable := [] }) = true :=
  ⟨ready_of_precheck (by decide), by decide, ready_of_precheck (by decide), by decide⟩

/-- A run that comes to a good end. -/
theorem witness_GoodEnd :
    ∃ t u, Host.Core.run Sys2Proof.core 1 (latched ⟨0x00000006, 5, 0⟩ (board [])) = .next t ∧
      Host.Core.run Sys2Proof.core 1 t = .next u ∧ u.GoodEnd := ⟨_, _, rfl, rfl, ⟨rfl, rfl, rfl⟩, rfl⟩

theorem witness_UndefAccessIsSticky :
    ∃ t, step (latched ⟨0x00000006, 5, 0⟩ { board [] with status := { State.reset.status with undefAccess := true } }) = .next t ∧
      t.status.undefAccess = true := ⟨_, rfl, by decide⟩

/-- A state with a channel allocated and a command latched is not faulted and meets the invariant, and steps to one not faulted. -/
theorem witness_StepKeepsInvariant :
    ∃ t, (latched ⟨0x00000006, 5, 0⟩ (board [(0x21, 1000)])).Good ∧ (latched ⟨0x00000006, 5, 0⟩ (board [(0x21, 1000)])).Inv ∧
      step (latched ⟨0x00000006, 5, 0⟩ (board [(0x21, 1000)])) = .next t ∧ t.Good := by
  refine ⟨_, rfl, ⟨by decide, by decide, by decide, ?_, ?_, ?_, by decide, by decide, by decide, by decide, by decide⟩, rfl, rfl⟩
  · intro h hh
    have h2 : h < 2 := hh
    interval_cases h <;> decide
  · intro h hh
    have h1 : h < 1 := hh
    interval_cases h
    decide
  · intro h
    match h with
    | 0 => decide
    | 1 => decide
    | n + 2 => exact (by decide : Channel.reset.ramp ≠ .mode .hold)

theorem witness_ResetMeetsInvariant : Params.testConfig.wf = true := by decide

theorem witness_ResetState : (Instr.regRead 0 0).isCommand = true ∧ ∀ cs, Instr.regRead 0 0 ≠ .init cs :=
  ⟨rfl, nofun⟩

theorem witness_ParametersNeverChange : ∃ t, step State.reset = .next t ∧ t.Good := ⟨_, rfl, rfl⟩

theorem witness_OnlyInitAllocates :
    ∃ t, (∀ cs, Instr.setDirection 0 false ≠ .init cs) ∧ exec (.setDirection 0 false) (board []) = .next t ∧ t.Good :=
  ⟨_, nofun, rfl, rfl⟩

/-- SET_DIRECTION on another channel, and SET_VELOCITY on this one, for the sign; the other way for the speed. -/
theorem witness_StoredSignAndSpeedWriters :
    (∀ fwd, Instr.setDirection 1 false ≠ .setDirection 0 fwd) ∧ (∀ fwd, Instr.setVelocity 0 50 ≠ .setDirection 0 fwd) ∧
    (∀ p, Instr.setDirection 0 false ≠ .setVelocity 0 p) ∧ (∀ p, Instr.setVelocity 1 50 ≠ .setVelocity 0 p) ∧
    (∃ t, exec (.setDirection 0 false) (board []) = .next t ∧ t.Good) ∧
    ∃ t, exec (.setVelocity 0 50) (board []) = .next t ∧ t.Good :=
  ⟨nofun, nofun, nofun, nofun, ⟨_, rfl, rfl⟩, ⟨_, rfl, rfl⟩⟩

theorem witness_RampShadowIsNeverRead : ∃ t, exec (.setPosition 0 50) (board []) = .next t ∧ t.Good :=
  ⟨_, rfl, rfl⟩

theorem witness_ScratchRegistersUnobservable : ∃ t, exec (.moveBy 0 1 1) (board []) = .next t ∧ t.Good :=
  ⟨_, rfl, rfl⟩

theorem witness_ResultWrittenAtCompletion :
    (turn .sequencer { latched ⟨0x00000106, 5, 0⟩ (board []) with result := 7 }).status.undefAccess = false ∧
    (turn .sequencer { latched ⟨0x00000106, 5, 0⟩ (board []) with result := 7 }).result ≠ 7 := by decide

/-- A ready command and one that fails. -/
theorem witness_AgentMovesReachCommandEnd :
    (latched ⟨0x00000006, 5, 0⟩ (board [])).bus.select = false ∧ (latched ⟨0x00000006, 5, 0⟩ (board [])).phase = .busy ∧
    (latched ⟨0x00000006, 5, 0⟩ (board [])).k = 0 ∧
    decodeCommand (latched ⟨0x00000006, 5, 0⟩ (board [])).cmd = .ok (.rotate 0 5) ∧
    Ready (.rotate 0 5) (latched ⟨0x00000006, 5, 0⟩ (board [])) ∧
    decodeCommand (latched ⟨0x00000106, 5, 0⟩ (board [])).cmd = .ok (.rotate 1 5) ∧
    precheck (.rotate 1 5) (latched ⟨0x00000106, 5, 0⟩ (board [])) = some (.badChannel, 1) ∧
    (∃ t, step (latched ⟨0x00000006, 5, 0⟩ (board [])) = .next t ∧ t.Good) ∧
    ∃ t, step (latched ⟨0x00000106, 5, 0⟩ (board [])) = .next t ∧ t.Good :=
  ⟨by decide, by decide, by decide, by decide, ready_of_precheck (by decide), by decide, by decide, ⟨_, rfl, rfl⟩, ⟨_, rfl, rfl⟩⟩

/-- The widest masks that fit at either end of the shift. -/
theorem witness_FieldIsolation :
    (0xFFFFFFFF : Word).toNat < 2 ^ (32 - 0) ∧ (1 : Word).toNat < 2 ^ (32 - 31) ∧ 31 < 32 := by decide

/-- The narrowest mask that does not fit at the last shift. -/
theorem witness_MaskOverflow : 31 < 32 ∧ 2 ^ (32 - 31) ≤ (2 : Word).toNat ∧ 2 ^ (32 - 28) ≤ (0xFF : Word).toNat := by decide

theorem witness_ScaleRoundsHalvesAway : (0 : Int) ≤ 50 * (1 : Nat) ∧ (-50 : Int) * (1 : Nat) ≤ 0 := by decide

theorem witness_ScaleIsMonotone :
    2147483647 < 2 ^ 31 ∧ (0 : Int) ≤ 100 ∧ -(2 ^ 31) ≤ roundHundredth (-100 * (2147483647 : Nat)) ∧
    roundHundredth (100 * (2147483647 : Nat)) < 2 ^ 31 := by decide

theorem witness_SpeedIsMagnitude : (0x80000001 : Word) ≠ 0x80000000 := by decide

/-- At the reference device; and with free devices. -/
theorem witness_ReadReturnsFirstSample :
    runs (.regRead 0 0x21) (board [(0x21, 7)]) ∧ (board [(0x21, 7)]).oracle = .reference ∧
    runs (.regRead 0 0x21) { board [] with oracle := .free } ∧
    (∃ t, exec (.regRead 0 0x21) (board [(0x21, 7)]) = .next t) ∧
    ∃ t, exec (.regRead 0 0x21) { board [] with oracle := .free } = .next t :=
  ⟨runs_of (by decide) (by decide) (by decide), rfl, runs_of (by decide) (by decide) (by decide), ⟨_, rfl⟩,
    ⟨_, exec_of_ready (ready_of_precheck (by decide))⟩⟩

theorem witness_ReferenceRoundTrip :
    (board []).status.undefAccess = false ∧ (board []).oracle = .reference ∧ 0 < (board []).allocCount.toNat ∧
    accessClass (board []).params 0x00 = .readWrite := by decide

theorem witness_ReferenceFieldRoundTrip :
    (board []).status.undefAccess = false ∧ (board []).oracle = .reference ∧ 0 < (board []).allocCount.toNat ∧
    accessClass (board []).params 0x6C = .readWrite ∧ 31 < 32 ∧ (1 : Word).toNat < 2 ^ (32 - 31) := by decide

/-- The highest read request and the lowest write request, on a register that reading clears and one it does not. -/
theorem witness_ReferenceDeviceExchange :
    (board []).status.undefAccess = false ∧
    (board []).oracle = .reference ∧ (frameByte 0x7F00000000 0).toNat < 128 ∧ 128 ≤ (frameByte 0x8000000000 0).toNat ∧
    accessClass withFlags 0x05 = .readOnlyClearOnRead ∧ accessClass withFlags 0x04 ≠ .readOnlyClearOnRead := by decide

end Sys2Proof.Tests
end

section
/-! SUPPORT. What a step is made of: the elementary changes, and that every instruction, move and step is a sequence of them.
What each elementary change keeps, every step keeps: the fault bit, and the invariant (O40). -/

namespace Sys2Proof.Machine

/-- What an `INIT` that succeeds does to the channel file (44_channel R200). -/
def allocate (cs : Word) (s : State) : State :=
  { setChan s.allocCount.toNat (freshChannel cs) s with allocCount := s.allocCount + 1 }

/-- `INIT` as its two failures and the allocation (44_channel R200). -/
theorem initBody_eq (cs : Word) (s : State) : initBody cs s =
    if s.allocCount.toNat = s.params.maxChannels then raise .initFailure 1 s
    else if s.params.numCS ≤ cs.toNat then raise .initFailure 2 s
    else complete s.allocCount (allocate cs s) := rfl

/-- One elementary change of the state, with the guard under which the machine makes it. -/
inductive Update (s : State) : State → Prop
  | flag (a : Addr) (dir : AccessDir) : Update s (flagAccess a dir s)
  | select (h : Nat) (tx : Frame) : Update s (assertSelect h tx s)
  | answer (tx : Frame) : Update s (answer tx s)
  | latch : Update s (latchRead s)
  | target (delta : Word) : Update s (computeTarget delta s)
  | ramp (h : Nat) {m : RampMode} (hm : m ≠ .hold) : Update s (setRamp h m s)
  | dir (h : Nat) (d : Direction) : Update s (setDir h d s)
  | vmax (h : Nat) (v : Word) : Update s (setVmax h v s)
  | allocate {cs : Word} (hfree : s.allocCount.toNat ≠ s.params.maxChannels) (hcs : cs.toNat < s.params.numCS) :
      Update s (allocate cs s)
  | finish {code : StatusCode} {detail : BitVec 4} (r : Word) (hlegal : legalOutcome code detail = true) :
      Update s (finish code detail { s with result := r })
  | port (c0 c1 c2 : Word) (rest : List HostAccess) (log : List (Nat × Word)) :
      Update s { s with cmd0 := c0, cmd1 := c1, cmd2 := c2, host := rest, hostLog := log }
  | submit (hidle : s.status.busy = false) : Update s (submit s)

/-- Elementary changes one after another. -/
abbrev Updates : State → State → Prop := Relation.ReflTransGen Update

/-- What every elementary change keeps, any number of them keeps. -/
theorem Updates.keeps {P : State → Prop} (hP : ∀ s t, Update s t → P s → P t) {s t : State} (h : Updates s t)
    (hs : P s) : P t := by
  induction h with
  | refl => exact hs
  | tail _ hu ih => exact hP _ _ hu ih

theorem modeOfVelocity_ne_hold (v : Word) : modeOfVelocity v ≠ .hold := by unfold modeOfVelocity; split <;> decide

theorem modeOfDirection_ne_hold (fwd : Bool) : modeOfDirection fwd ≠ .hold := by cases fwd <;> decide

section Compose

variable {r s : State} (hs : Updates r s)
include hs

theorem Updates.thenUpdate {t : State} (hu : Update s t) : Updates r t := hs.tail hu

theorem Updates.thenSendWrite {h : Nat} {a : Addr} {v : Word} : Updates r (sendWrite h a v s) :=
  (hs.thenUpdate (.flag a .write)).thenUpdate (.select h (writeFrame a v))

theorem Updates.thenSendRead {h : Nat} {a : Addr} : Updates r (sendRead h a s) :=
  (hs.thenUpdate (.flag a .read)).thenUpdate (.select h (readFrame a))

theorem Updates.thenResendRead {h : Nat} {a : Addr} : Updates r (resendRead h a s) :=
  hs.thenUpdate (.select h (readFrame a))

theorem Updates.thenAnswer {tx : Frame} : Updates r (answer tx s) := hs.thenUpdate (.answer tx)

theorem Updates.thenWriteReg {h : Nat} {a : Addr} {v : Word} : Updates r (writeReg h a v s) :=
  hs.thenSendWrite.thenAnswer

theorem Updates.thenReadReg {h : Nat} {a : Addr} : Updates r (readReg h a s) :=
  hs.thenSendRead.thenAnswer.thenResendRead.thenAnswer.thenUpdate .latch

theorem Updates.thenSetRampMode {h : Nat} {m : RampMode} (hm : m ≠ .hold) : Updates r (setRampMode h m s) :=
  hs.thenWriteReg.thenUpdate (.ramp h hm)

theorem Updates.thenMoveToBody {h : Nat} {pos vel : Word} : Updates r (moveToBody h pos vel s) :=
  (hs.thenSetRampMode (by decide)).thenWriteReg.thenWriteReg

theorem Updates.thenComplete {x : Word} : Updates r (complete x s) := hs.thenUpdate (.finish x rfl)

theorem Updates.thenRaise {code : StatusCode} {detail : BitVec 4} (hlegal : legalOutcome code detail = true) :
    Updates r (raise code detail s) := hs.thenUpdate (.finish 0 hlegal)

end Compose

/-- `INIT` allocates and completes, or fails. -/
theorem updates_initBody (cs : Word) (s : State) : Updates s (initBody cs s) := by
  have start : Updates s s := .refl
  rw [initBody_eq]
  split
  · exact start.thenRaise rfl
  · next hfree =>
    split
    · exact start.thenRaise rfl
    · next hcs => exact (start.thenUpdate (.allocate hfree (Nat.lt_of_not_le hcs))).thenComplete

theorem updates_bodyOf (i : Instr) (s : State) : Updates s (bodyOf i s) := by
  have start : Updates s s := .refl
  cases i with
  | init cs => exact updates_initBody cs s
  | regWrite h a v => exact start.thenWriteReg.thenComplete
  | regRead h a => exact start.thenReadReg.thenComplete
  | fieldRead h a sh mask => exact start.thenReadReg.thenComplete
  | fieldWrite h a sh mask v => exact start.thenReadReg.thenWriteReg.thenComplete
  | rotate h v => exact (start.thenWriteReg.thenSetRampMode (modeOfVelocity_ne_hold v)).thenComplete
  | moveTo h pos vel => exact start.thenMoveToBody.thenComplete
  | moveBy h delta vel => exact (start.thenReadReg.thenUpdate (.target delta)).thenMoveToBody.thenComplete
  | setDirection h fwd =>
    exact ((start.thenWriteReg.thenSetRampMode (modeOfDirection_ne_hold fwd)).thenUpdate (.dir h _)).thenComplete
  | setVelocity h p => exact (start.thenWriteReg.thenWriteReg.thenUpdate (.vmax h _)).thenComplete
  | setAcceleration h p => exact start.thenWriteReg.thenWriteReg.thenComplete
  | setPosition h p => exact start.thenMoveToBody.thenComplete
  | dgWrite a v => exact start.thenAnswer
  | dgRead a payload => exact start.thenAnswer

theorem updates_moveToTurn (h : Nat) (pos vel x : Word) (n : Nat) (s : State) :
    Updates s (moveToTurn h pos vel x n s) := by
  have start : Updates s s := .refl
  match n with
  | 0 => exact start.thenSendWrite
  | 1 => exact (start.thenUpdate (.ramp h (by decide))).thenSendWrite
  | 2 => exact start.thenSendWrite
  | _ + 3 => exact start.thenComplete

theorem updates_commandTurn (i : Instr) (n : Nat) (s : State) : Updates s (commandTurn i n s) := by
  have start : Updates s s := .refl
  have latched : Updates s (latchRead s) := start.thenUpdate .latch
  cases i with
  | init cs => exact updates_initBody cs s
  | regWrite h a v =>
    match n with
    | 0 => exact start.thenSendWrite
    | _ + 1 => exact start.thenComplete
  | regRead h a =>
    match n with
    | 0 => exact start.thenSendRead
    | 1 => exact start.thenResendRead
    | _ + 2 => exact latched.thenComplete
  | fieldRead h a sh mask =>
    match n with
    | 0 => exact start.thenSendRead
    | 1 => exact start.thenResendRead
    | _ + 2 => exact latched.thenComplete
  | fieldWrite h a sh mask v =>
    match n with
    | 0 => exact start.thenSendRead
    | 1 => exact start.thenResendRead
    | 2 => exact latched.thenSendWrite
    | _ + 3 => exact start.thenComplete
  | rotate h v =>
    match n with
    | 0 => exact start.thenSendWrite
    | 1 => exact start.thenSendWrite
    | _ + 2 => exact (start.thenUpdate (.ramp h (modeOfVelocity_ne_hold v))).thenComplete
  | moveTo h pos vel => exact updates_moveToTurn h pos vel 0 n s
  | moveBy h delta vel =>
    match n with
    | 0 => exact start.thenSendRead
    | 1 => exact start.thenResendRead
    | 2 => exact (latched.thenUpdate (.target delta)).trans (updates_moveToTurn h 0 vel 0 0 _)
    | n + 3 => exact updates_moveToTurn h s.tgt vel s.tgt (n + 1) s
  | setDirection h fwd =>
    match n with
    | 0 => exact start.thenSendWrite
    | 1 => exact start.thenSendWrite
    | _ + 2 =>
      exact ((start.thenUpdate (.ramp h (modeOfDirection_ne_hold fwd))).thenUpdate (.dir h _)).thenComplete
  | setVelocity h p =>
    match n with
    | 0 => exact start.thenSendWrite
    | 1 => exact start.thenSendWrite
    | _ + 2 => exact (start.thenUpdate (.vmax h _)).thenComplete
  | setAcceleration h p =>
    match n with
    | 0 => exact start.thenSendWrite
    | 1 => exact start.thenSendWrite
    | _ + 2 => exact start.thenComplete
  | setPosition h p => exact updates_moveToTurn h _ _ 0 n s
  | dgWrite a v => exact start
  | dgRead a payload => exact start

theorem updates_raiseIllegal (r : Reject) (s : State) : Updates s (raiseIllegal r s) := by
  have start : Updates s s := .refl
  cases r <;> exact start.thenRaise rfl

theorem updates_exec {i : Instr} {s t : State} (h : exec i s = .next t) : Updates s t := by
  have start : Updates s s := .refl
  rcases exec_cases i s with ⟨c, d, hlegal, -, -, he⟩ | ⟨-, he⟩
  · cases he.symm.trans h
    exact start.thenRaise hlegal
  · cases he.symm.trans h
    exact updates_bodyOf i s

theorem updates_decodedTurn (i : Instr) (s : State) : Updates s (decodedTurn i s) := by
  have start : Updates s s := .refl
  unfold decodedTurn
  split
  · split
    · next f hf => exact start.thenRaise (precheck_legal (d := f.2) hf).1
    · exact updates_commandTurn i 0 s
  · exact updates_commandTurn i s.k s

theorem updates_sequencerTurn (s : State) : Updates s (sequencerTurn s) := by
  unfold sequencerTurn busyTurn
  split
  · exact .refl
  · split
    · exact .refl
    · split
      · exact updates_raiseIllegal _ s
      · exact updates_decodedTurn _ s

theorem updates_hostWrite (idx : Nat) (v : Word) (s : State) : Updates s (hostWrite idx v s) := by
  have start : Updates s s := .refl
  unfold hostWrite
  split
  · exact start
  · next hidle =>
    match idx with
    | 0 =>
      have stored := start.thenUpdate (.port v s.cmd1 s.cmd2 s.host s.hostLog)
      exact stored.thenUpdate (.submit (Bool.not_eq_true _ ▸ hidle))
    | 1 => exact start.thenUpdate (.port s.cmd0 v s.cmd2 s.host s.hostLog)
    | 2 => exact start.thenUpdate (.port s.cmd0 s.cmd1 v s.host s.hostLog)
    | _ + 3 => exact start

theorem updates_hostAccess (acc : HostAccess) (s : State) : Updates s (hostAccess acc s) := by
  cases acc with
  | write idx v => exact updates_hostWrite idx v s
  | read idx =>
    exact .single (.port s.cmd0 s.cmd1 s.cmd2 s.host (s.hostLog ++ [(idx, hostRead s idx)]))

theorem updates_hostTurn (s : State) : Updates s (hostTurn s) := by
  unfold hostTurn
  split
  · exact .refl
  · next acc rest _ =>
    have taken : Updates s { s with host := rest } := .single (.port s.cmd0 s.cmd1 s.cmd2 rest s.hostLog)
    exact taken.trans (updates_hostAccess acc _)

/-- A step is a sequence of elementary changes. -/
theorem updates_step {s t : State} (h : step s = .next t) : Updates s t := by
  rcases step_cases s with ⟨-, he⟩ | ⟨-, -, -, i, -, he⟩ | ⟨-, -, -, r, -, he⟩ | ⟨-, -, -, he⟩ | ⟨-, -, he⟩
  · exact updates_exec (he ▸ h)
  · exact updates_exec (he ▸ h)
  · cases he.symm.trans h
    exact updates_raiseIllegal r s
  · cases he.symm.trans h
    exact updates_sequencerTurn s
  · cases he.symm.trans h
    exact updates_hostTurn s

/-! ### What every elementary change keeps -/

/-- Nothing clears `UNDEF_ACCESS` (10_state R37). -/
theorem Update.undefAccess_sticky {s t : State} (h : Update s t) (hs : s.status.undefAccess = true) :
    t.status.undefAccess = true := by
  cases h with
  | flag a dir => simp [hs]
  | answer tx => simpa using hs
  | select | latch | target | ramp | dir | vmax | allocate | finish | port | submit => exact hs

/-- So a step into a good state starts from a good one. -/
theorem Updates.good_of_good {s t : State} (h : Updates s t) (ht : t.Good) : s.Good := by
  by_contra hs
  have := h.keeps (P := fun s => s.status.undefAccess = true) (fun _ _ hu => hu.undefAccess_sticky)
    (by simpa [State.Good] using hs)
  exact absurd ht (by simp [State.Good, this])

/-- A field in which the new entry agrees with the old one is as before in every entry. -/
theorem chanOf_setChan_congr {α : Type} (field : Channel → α) {s : State} {h : Nat} {c : Channel}
    (hc : field c = field (chanOf s h)) (h' : Nat) : field (chanOf (setChan h c s) h') = field (chanOf s h') := by
  rw [chanOf_setChan]
  split
  · next heq => rw [hc, heq.1]
  · rfl

theorem maxChannels_le_of_wf {p : Params} (h : p.wf = true) : p.maxChannels ≤ 256 := by
  simp only [Params.wf, Bool.and_eq_true, decide_eq_true_eq] at h
  tauto

section Inv

variable {s : State} (hs : s.Inv)
include hs

theorem State.Inv.keeps_setDeviceReg (cs : Word) (a : Addr) (v : Word) : (setDeviceReg cs a v s).Inv :=
  { hs with regs := wf_memWrite hs.regs }

theorem State.Inv.keeps_setDevicePend (cs v : Word) : (setDevicePend cs v s).Inv :=
  { hs with pends := wf_memWrite hs.pends }

theorem State.Inv.keeps_clearDevicePend (cs : Word) : (clearDevicePend cs s).Inv :=
  { hs with pends := wf_memErase hs.pends }

theorem State.Inv.keeps_deviceAct (cs : Word) (tx : Frame) : (deviceAct cs tx s).Inv := by
  unfold deviceAct deviceWrite deviceRead
  split
  · split
    · exact (hs.keeps_setDeviceReg ..).keeps_clearDevicePend ..
    · exact (hs.keeps_setDeviceReg ..).keeps_setDevicePend ..
  · exact (hs.keeps_setDeviceReg ..).keeps_setDevicePend ..

theorem State.Inv.keeps_answer (tx : Frame) : (answer tx s).Inv :=
  { hs.keeps_deviceAct s.bus.cs tx with }

theorem State.Inv.keeps_flagAccess (a : Addr) (dir : AccessDir) : (flagAccess a dir s).Inv := by
  unfold flagAccess
  split
  · exact hs
  · exact { hs with }

/-- An entry may be replaced by one of the same allocation and chip-select whose shadow is not `Hold`. -/
theorem State.Inv.keeps_setChan {h : Nat} {c : Channel} (halloc : c.alloc = (chanOf s h).alloc)
    (hcs : c.cs = (chanOf s h).cs) (hramp : c.ramp ≠ .mode .hold) : (setChan h c s).Inv where
  __ := hs
  channels := by simp [setChan_chans, hs.channels]
  allocated h' hh' := by
    rw [chanOf_setChan_congr Channel.alloc halloc]
    exact hs.allocated h' (by simpa [setChan_chans] using hh')
  chipSelects h' hh' := by
    rw [chanOf_setChan_congr Channel.cs hcs]
    exact hs.chipSelects h' hh'
  notHold h' := by
    rw [chanOf_setChan]
    split
    · exact hramp
    · exact hs.notHold h'

/-- `INIT` allocates the first free entry, which becomes the last allocated one (44_channel R200, R202). -/
theorem State.Inv.keeps_allocate {cs : Word} (hfree : s.allocCount.toNat ≠ s.params.maxChannels)
    (hcs : cs.toNat < s.params.numCS) :
    (allocate cs s).Inv := by
  have hlength := hs.channels
  have hbound := hs.allocBound
  have hroom : s.allocCount.toNat < s.chans.length := by omega
  have hcount : (allocate cs s).allocCount.toNat = s.allocCount.toNat + 1 := by
    have := maxChannels_le_of_wf hs.params
    change (s.allocCount + 1).toNat = _
    bv_omega
  have hchan : ∀ h', chanOf (allocate cs s) h' = if h' = s.allocCount.toNat then freshChannel cs else chanOf s h' := by
    intro h'
    have hset : chanOf (allocate cs s) h' = chanOf (setChan s.allocCount.toNat (freshChannel cs) s) h' := rfl
    simp only [hset, chanOf_setChan, hroom, and_true]
  have hfile : (allocate cs s).chans.length = s.chans.length := List.length_set
  refine { hs with channels := hfile.trans hlength, allocBound := ?_, allocated := ?_, chipSelects := ?_, notHold := ?_ }
  · rw [hcount]
    exact Nat.lt_of_le_of_ne hbound hfree
  · intro h' hh'
    rw [hchan, hcount]
    split
    · next heq => simp [freshChannel, heq]
    · next hne => rw [hs.allocated h' (hfile ▸ hh'), decide_eq_decide]; omega
  · intro h' hh'
    rw [hchan]
    split
    · exact hcs
    · next hne => exact hs.chipSelects h' (by omega)
  · intro h'
    rw [hchan]
    split
    · simp [freshChannel]
    · exact hs.notHold h'

theorem State.Inv.keeps_finish {code : StatusCode} {detail : BitVec 4} (r : Word)
    (hlegal : legalOutcome code detail = true) : (finish code detail { s with result := r }).Inv :=
  { hs with mirrors := rfl, notBoth := rfl, outcome := hlegal }

theorem State.Inv.keeps_submit : (submit s).Inv :=
  { hs with mirrors := rfl, notBoth := rfl, outcome := rfl }

end Inv

theorem Update.keeps_inv {s t : State} (h : Update s t) (hs : s.Inv) : t.Inv := by
  cases h with
  | flag a dir => exact hs.keeps_flagAccess a dir
  | answer tx => exact hs.keeps_answer tx
  | ramp h hm => exact hs.keeps_setChan rfl rfl (by simpa using hm)
  | dir h d => exact hs.keeps_setChan rfl rfl (hs.notHold h)
  | vmax h v => exact hs.keeps_setChan rfl rfl (hs.notHold h)
  | allocate hfree hcs => exact hs.keeps_allocate hfree hcs
  | finish r hlegal => exact hs.keeps_finish r hlegal
  | submit _ => exact hs.keeps_submit
  | select | latch | target | port => exact { hs with }

/-- Settles O40: `UNDEF_ACCESS` is sticky, so the state before is good and meets the invariant, and every elementary change of
the step keeps the invariant. -/
theorem stepKeepsInvariant : Obligations.StepKeepsInvariant := by
  intro s t hsound hstep hgood
  have hupd := updates_step hstep
  exact hupd.keeps (fun _ _ hu => hu.keeps_inv) (hsound (hupd.good_of_good hgood))

end Sys2Proof.Machine
end

section
/-! SUPPORT. The agents' moves one by one: exchange by exchange to the state that the command's body gives (O49). -/

namespace Sys2Proof.Machine

/-- The sequencer's place (10_state R27), with the descriptor it has latched. -/
def place (s : State) : Phase × Descriptor × Nat := (s.phase, s.cmd, s.k)

/-- The sequencer is about to move in command `i`, having performed `n` exchanges; if none, the command passes its pre-check. -/
structure Underway (i : Instr) (n : Nat) (s : State) : Prop where
  noSelect : s.bus.select = false
  busy : s.phase = .busy
  decoded : decodeCommand s.cmd = .ok i
  count : s.k = n
  passed : n = 0 → precheck i s = none

/-- From `s`, where command `i` has performed `n` exchanges, it reaches `t` after `m` more. -/
def Completes (i : Instr) (n m : Nat) (s t : State) : Prop := Underway i n s → turns (commandTurns m) s = t

variable {i : Instr} {n m : Nat} {s t u : State} {h : Nat} {a : Addr} {v : Word}

theorem sequencerTurn_of_decoded (hsel : s.bus.select = false) (hphase : s.phase = .busy)
    (hdec : decodeCommand s.cmd = .ok i) : sequencerTurn s = decodedTurn i s := by
  simp [sequencerTurn, busyTurn, hsel, hphase, hdec]

theorem Underway.sequencerTurn_eq (hs : Underway i n s) : sequencerTurn s = commandTurn i n s := by
  rw [sequencerTurn_of_decoded hs.noSelect hs.busy hs.decoded, decodedTurn, hs.count]
  split
  · next h0 => rw [hs.passed h0, h0]
  · rfl

/-- The device's move ends the exchange that the sequencer's move began. -/
theorem deviceTurn_assertSelect (h : Nat) (tx : Frame) (s : State) :
    deviceTurn (assertSelect h tx s) = exchange h tx s := rfl

/-- The last move completes the command. -/
theorem Completes.last (hc : commandTurn i n s = t) : Completes i n 0 s t := fun hs =>
  hs.sequencerTurn_eq.trans hc

/-- A move of the sequencer, with what it does to the state before it selects, and one of the device make one exchange. -/
theorem Completes.byExchange {tx : Frame} (hc : commandTurn i n s = assertSelect h tx u) (hp : place u = place s)
    (hr : Completes i (n + 1) m (exchange h tx u) t) : Completes i n (m + 1) s t := fun hs => by
  have hmoves : turns (commandTurns (m + 1)) s = turns (commandTurns m) (deviceTurn (sequencerTurn s)) := rfl
  rw [hmoves, hs.sequencerTurn_eq, hc, deviceTurn_assertSelect]
  simp only [place, Prod.mk.injEq] at hp
  obtain ⟨hphase, hcmd, hk⟩ := hp
  refine hr ⟨?_, ?_, ?_, ?_, ?_⟩
  · simp
  · simp [hphase, hs.busy]
  · simp [hcmd, hs.decoded]
  · simp [hk, hs.count]
  · simp

@[simp] theorem place_flagAccess (a : Addr) (dir : AccessDir) (s : State) : place (flagAccess a dir s) = place s := by
  simp [place]

theorem Completes.byWrite (hc : commandTurn i n s = sendWrite h a v u) (hp : place u = place s)
    (hr : Completes i (n + 1) m (writeReg h a v u) t) : Completes i n (m + 1) s t :=
  .byExchange hc (by simp [hp]) hr

/-- The four moves of a register read leave it to the next move to latch what was read. -/
theorem Completes.byRead (hc : commandTurn i n s = sendRead h a s)
    (hc' : commandTurn i (n + 1) (exchange h (readFrame a) (flagAccess a .read s)) =
      resendRead h a (exchange h (readFrame a) (flagAccess a .read s)))
    (hr : Completes i (n + 2) m (exchange h (readFrame a) (exchange h (readFrame a) (flagAccess a .read s))) t) :
    Completes i n (m + 2) s t :=
  .byExchange hc (by simp) (.byExchange hc' rfl hr)

/-- The moves of a command that passes its pre-check reach the state its body gives. -/
theorem completes_bodyOf (i : Instr) (s : State) (hi : i.isCommand = true) :
    Completes i 0 (exchangeCount i) s (bodyOf i s) := by
  cases i with
  | init cs => exact .last rfl
  | regWrite h a v => exact .byWrite rfl rfl (.last rfl)
  | regRead h a => exact .byRead rfl rfl (.last rfl)
  | fieldRead h a sh mask => exact .byRead rfl rfl (.last rfl)
  | fieldWrite h a sh mask v => exact .byRead rfl rfl (.byWrite rfl rfl (.last rfl))
  | rotate h v => exact .byWrite rfl rfl (.byWrite rfl rfl (.last rfl))
  | moveTo h pos vel =>
    exact .byWrite rfl rfl (.byWrite rfl rfl (.byWrite rfl rfl (.last (by
      simp [commandTurn, moveToTurn, bodyOf, bodyMoveTo, moveToBody, setRampMode]))))
  | moveBy h delta vel =>
    exact .byRead rfl (by simp [commandTurn]) (.byWrite rfl rfl (.byWrite rfl rfl (.byWrite rfl rfl (.last (by
      simp [commandTurn, moveToTurn, bodyOf, bodyMoveBy, moveToBody, setRampMode, readReg])))))
  | setDirection h fwd => exact .byWrite rfl rfl (.byWrite rfl rfl (.last rfl))
  | setVelocity h p =>
    exact .byWrite rfl rfl (.byWrite rfl rfl (.last (by simp [commandTurn, bodyOf, bodySetVelocity])))
  | setAcceleration h p =>
    exact .byWrite rfl rfl (.byWrite rfl rfl (.last (by simp [commandTurn, bodyOf, bodySetAcceleration])))
  | setPosition h p =>
    exact .byWrite rfl rfl (.byWrite rfl rfl (.byWrite rfl rfl (.last (by
      simp [commandTurn, moveToTurn, bodyOf, bodySetPosition, moveToBody, setRampMode]))))
  | dgWrite a v => cases hi
  | dgRead a payload => cases hi

theorem isCommand_of_decodeCommand {d : Descriptor} (h : decodeCommand d = .ok i) : i.isCommand = true := by
  unfold decodeCommand at h
  split at h
  · cases h
  · next j hj =>
    split at h <;> cases h
    unfold commandOf at hj
    split at hj <;> cases hj <;> rfl

theorem exchangeCount_le (i : Instr) : exchangeCount i ≤ 5 := by cases i <;> simp [exchangeCount]

theorem step_of_decoded (hsel : s.bus.select = false) (hphase : s.phase = .busy) (hk : s.k = 0)
    (hdec : decodeCommand s.cmd = .ok i) : step s = exec i s := by
  simp [step, hsel, hphase, hk, hdec]

/-- Settles O49: a command that fails its pre-check fails in the sequencer's first move; one that passes it makes its exchanges
one by one and then completes. -/
theorem agentMovesReachCommandEnd : Obligations.AgentMovesReachCommandEnd := by
  intro i s t hsel hphase hk hdec hstep _
  rw [step_of_decoded hsel hphase hk hdec] at hstep
  rcases exec_cases i s with ⟨c, d, -, -, hfail, hexec⟩ | ⟨hpass, hexec⟩
  · have ht : failedState c d s = t := by simpa [hexec] using hstep
    refine ⟨0, by omega, .inr rfl, fun hready => ?_, ?_⟩
    · cases hfail.symm.trans (precheck_none_of_ready s hready)
    · calc turns (commandTurns 0) s = decodedTurn i s := sequencerTurn_of_decoded hsel hphase hdec
        _ = failedState c d s := by simp [decodedTurn, hk, hfail, raise_eq_failedState]
        _ = t := ht
  · have ht : bodyOf i s = t := by simpa [hexec] using hstep
    have hstart : Underway i 0 s := ⟨hsel, hphase, hdec, hk, fun _ => hpass⟩
    exact ⟨exchangeCount i, exchangeCount_le i, .inl rfl, fun _ => rfl,
      (completes_bodyOf i s (isCommand_of_decodeCommand hdec) hstart).trans ht⟩

end Sys2Proof.Machine
end

section
/-! SUPPORT. What the accesses of a command do to the state, said once for every access list: one write or read appends its
datagrams, and the body of a command is its accesses, its entry of the channel file, and the completion. -/

namespace Sys2Proof.Machine

/-- From `s` to `t` the accesses `accs` have been made on channel `h`: their datagrams are in the history, a forbidden one among
them has set `UNDEF_ACCESS`, and the rest of the block, the other device registers and the other devices' latches are as before.
The scratch registers and the channel's entry, but for its chip-select, are left open. -/
structure Accessed (h : Nat) (accs : List (Addr × AccessDir)) (s t : State) : Prop where
  setting : SameSetting s t
  status : t.status =
    { s.status with undefAccess := s.status.undefAccess || accs.any (fun e => !checkAccess s.params e.1 e.2) }
  statusLog : t.statusLog = s.statusLog
  alloc : t.allocCount = s.allocCount
  select : (chanOf t h).cs = (chanOf s h).cs
  events : ∃ evs, t.history = s.history ++ evs ∧ evs.map BusEvent.datagram = datagramsOf accs ∧ ∀ e ∈ evs, e.h = h
  count : t.k = s.k + (datagramsOf accs).length
  regs : ∀ cs a, (cs ≠ (chanOf s h).cs ∨ a ∉ accs.map Prod.fst) → deviceReg t cs a = deviceReg s cs a
  pends : ∀ cs, cs ≠ (chanOf s h).cs → devicePend t cs = devicePend s cs

theorem SameSetting.refl (s : State) : SameSetting s s := ⟨rfl, rfl, rfl, rfl, rfl, rfl, rfl, rfl⟩

theorem SameSetting.trans {r s t : State} (hs : SameSetting r s) (ht : SameSetting s t) : SameSetting r t :=
  ⟨ht.params.trans hs.params, ht.oracle.trans hs.oracle, ht.cmd0.trans hs.cmd0, ht.cmd1.trans hs.cmd1,
    ht.cmd2.trans hs.cmd2, ht.cmd.trans hs.cmd, ht.host.trans hs.host, ht.hostLog.trans hs.hostLog⟩

@[simp] theorem datagramsOf_append (xs ys : List (Addr × AccessDir)) :
    datagramsOf (xs ++ ys) = datagramsOf xs ++ datagramsOf ys := List.flatMap_append

/-- A command completes `OK` after as many exchanges as its access list has datagrams (70_reset_and_hazards R254). -/
theorem exchangeCount_eq_length {i : Instr} (p : Params) (hi : i.isCommand = true) :
    exchangeCount i = (datagramsOf (accessList p i)).length := by
  cases i with
  | dgWrite | dgRead => cases hi
  | _ => rfl

section Accesses

variable {h : Nat} {accs : List (Addr × AccessDir)} {s t u : State}

theorem Accessed.refl (h : Nat) (s : State) : Accessed h [] s s where
  setting := .refl s
  status := by simp
  statusLog := rfl
  alloc := rfl
  select := rfl
  events := ⟨[], by simp [datagramsOf]⟩
  count := rfl
  regs _ _ _ := rfl
  pends _ _ := rfl

theorem Accessed.trans {accs' : List (Addr × AccessDir)} (ht : Accessed h accs s t) (hu : Accessed h accs' t u) :
    Accessed h (accs ++ accs') s u where
  setting := ht.setting.trans hu.setting
  status := by simp [hu.status, ht.status, ht.setting.params, Bool.or_assoc]
  statusLog := hu.statusLog.trans ht.statusLog
  alloc := hu.alloc.trans ht.alloc
  select := hu.select.trans ht.select
  events := by
    obtain ⟨evs, hist, dgs, chan⟩ := ht.events
    obtain ⟨evs', hist', dgs', chan'⟩ := hu.events
    refine ⟨evs ++ evs', by simp [hist, hist'], by simp [dgs, dgs'], fun e he => ?_⟩
    exact (List.mem_append.mp he).elim (chan e) (chan' e)
  count := by simp [hu.count, ht.count, Nat.add_assoc]
  regs cs a hne := by
    simp only [List.map_append, List.mem_append, not_or] at hne
    rw [hu.regs cs a (ht.select ▸ hne.imp_right And.right), ht.regs cs a (hne.imp_right And.left)]
  pends cs hne := by rw [hu.pends cs (ht.select ▸ hne), ht.pends cs hne]

/-- `WriteReg` makes one write access (40_framer R110). -/
theorem accessed_writeReg (h : Nat) (a : Addr) (v : Word) (s : State) : Accessed h [(a, .write)] s (writeReg h a v s) where
  setting := by constructor <;> simp
  status := by simp
  statusLog := by simp
  alloc := by simp
  select := by simp
  events := ⟨_, writeReg_history s h a v, by simp [datagramsOf, BusEvent.datagram], by simp⟩
  count := by simp [datagramsOf]
  regs cs a' hne := deviceReg_writeReg_ne s h a v cs a' (by simpa using hne)
  pends cs hne := devicePend_writeReg_ne s h a v cs hne

/-- `ReadReg` makes one read access, which is two datagrams (40_framer R111). -/
theorem accessed_readReg (h : Nat) (a : Addr) (s : State) : Accessed h [(a, .read)] s (readReg h a s) where
  setting := by constructor <;> simp
  status := by simp
  statusLog := by simp
  alloc := by simp
  select := by simp
  events := ⟨_, readReg_history s h a, by simp [datagramsOf, BusEvent.datagram, readFrame], by simp⟩
  count := by simp [datagramsOf]
  regs cs a' hne := deviceReg_readReg_ne s h a cs a' (by simpa using hne)
  pends cs hne := devicePend_readReg_ne s h a cs hne

/-- Permitted accesses leave `STATUS` as it is. -/
theorem Accessed.status_of_permitted (ht : Accessed h accs s t)
    (hpermitted : ∀ e ∈ accs, checkAccess s.params e.1 e.2 = true) : t.status = s.status := by
  have hnone : accs.any (fun e => !checkAccess s.params e.1 e.2) = false := by
    simpa using fun a dir he => hpermitted (a, dir) he
  simp [ht.status, hnone]

/-- An entry of the channel file may be replaced by one of the same chip-select. -/
theorem Accessed.thenSetChan {c : Channel} (ht : Accessed h accs s t) (h' : Nat) (hc : c.cs = (chanOf t h').cs) :
    Accessed h accs s (setChan h' c t) where
  __ := ht
  setting := { ht.setting with }
  select := (chanOf_setChan_congr Channel.cs hc h).trans ht.select
  regs cs a hne := (deviceReg_setChan h' c t cs a).trans (ht.regs cs a hne)
  pends cs hne := (devicePend_setChan h' c t cs).trans (ht.pends cs hne)

theorem Accessed.thenSetRamp {m : RampMode} (ht : Accessed h accs s t) : Accessed h accs s (setRamp h m t) :=
  ht.thenSetChan h rfl

theorem Accessed.thenComputeTarget {delta : Word} (ht : Accessed h accs s t) :
    Accessed h accs s (computeTarget delta t) :=
  { ht with setting := { ht.setting with } }

theorem accessed_setRampMode (h : Nat) (m : RampMode) (s : State) :
    Accessed h [(s.params.addr.rampmode, .write)] s (setRampMode h m s) :=
  (accessed_writeReg h _ _ s).thenSetRamp

theorem accessed_moveToBody (h : Nat) (pos vel : Word) (s : State) :
    Accessed h (moveAccesses s.params) s (moveToBody h pos vel s) :=
  ((accessed_setRampMode h _ s).trans (accessed_writeReg h _ _ _)).trans (accessed_writeReg h _ _ _)

theorem isCommand_of_handle {i : Instr} (hi : handleOf i = some h) : i.isCommand = true := by
  cases i with
  | dgWrite | dgRead => cases hi
  | _ => rfl

/-- The body of every command on a channel makes the accesses of its list (40_framer R116), then completes. -/
theorem accessed_bodyOf {i : Instr} (s : State) (hi : handleOf i = some h) :
    ∃ x t, bodyOf i s = complete x t ∧ Accessed h (accessList s.params i) s t := by
  cases i with
  | init | dgWrite | dgRead => cases hi
  | regWrite => cases hi; exact ⟨_, _, rfl, accessed_writeReg ..⟩
  | regRead => cases hi; exact ⟨_, _, rfl, accessed_readReg ..⟩
  | fieldRead => cases hi; exact ⟨_, _, rfl, accessed_readReg ..⟩
  | fieldWrite => cases hi; exact ⟨_, _, rfl, (accessed_readReg ..).trans (accessed_writeReg ..)⟩
  | rotate h v =>
    cases hi
    have hset := accessed_setRampMode h (modeOfVelocity v) (writeReg h s.params.addr.vmax (speedOf v) s)
    exact ⟨_, _, rfl, (accessed_writeReg ..).trans (by simpa using hset)⟩
  | moveTo => cases hi; exact ⟨_, _, rfl, accessed_moveToBody ..⟩
  | moveBy h delta vel =>
    cases hi
    have hread := (accessed_readReg h s.params.addr.xactual s).thenComputeTarget (delta := delta)
    have hmove := fun pos => accessed_moveToBody h pos vel (computeTarget delta (readReg h s.params.addr.xactual s))
    simp only [computeTarget_params, readReg_params] at hmove
    exact ⟨_, _, rfl, hread.trans (hmove _)⟩
  | setDirection h fwd =>
    cases hi
    have hset := accessed_setRampMode h (modeOfDirection fwd) (writeReg h s.params.addr.vmax 0 s)
    exact ⟨_, _, rfl, ((accessed_writeReg ..).trans (by simpa using hset)).thenSetChan _ rfl⟩
  | setVelocity => cases hi; exact ⟨_, _, rfl, ((accessed_writeReg ..).trans (accessed_writeReg ..)).thenSetChan _ rfl⟩
  | setAcceleration => cases hi; exact ⟨_, _, rfl, (accessed_writeReg ..).trans (accessed_writeReg ..)⟩
  | setPosition => cases hi; exact ⟨_, _, rfl, accessed_moveToBody ..⟩

/-- The frame of a command that the run survives. -/
theorem finished_bodyOf {i : Instr} (hi : handleOf i = some h) (hu : Unfaulted i s) : Finished i h s (bodyOf i s) := by
  obtain ⟨x, t, hbody, ht⟩ := accessed_bodyOf s hi
  have hstatus := ht.status_of_permitted hu.permitted
  have hgood : s.status.undefAccess = false := hu.good
  rw [hbody]
  exact {
    setting := { ht.setting with }
    completed := ⟨by simp [completedStatus, hstatus, hgood], rfl, by simp [ht.statusLog]⟩
    count := by simp [exchangeCount_eq_length s.params (isCommand_of_handle hi), ht.count]
    alloc := ht.alloc
    regs := fun cs a hne => (deviceReg_complete x t cs a).trans (ht.regs cs a hne)
    pends := fun cs hne => (devicePend_complete x t cs).trans (ht.pends cs hne) }

end Accesses

end Sys2Proof.Machine
end

section
/-! SUPPORT. The motion commands: what each leaves in the channel's entry and in the registers it writes. -/

namespace Sys2Proof.Machine

/-! ### The channel's entry -/

/-- The entry that a command leaves for its channel (10_state R28): the shadow of the mode it sent, the sign of SET_DIRECTION,
the speed of SET_VELOCITY. -/
def entryAfter (p : Params) (i : Instr) (c : Channel) : Channel :=
  match i with
  | .rotate _ v => { c with ramp := .mode (modeOfVelocity v) }
  | .moveTo _ _ _ | .moveBy _ _ _ | .setPosition _ _ => { c with ramp := .mode .position }
  | .setDirection _ fwd => { c with ramp := .mode (modeOfDirection fwd), dir := directionOf fwd }
  | .setVelocity _ input => { c with vmax := scaledVelocity p input }
  | _ => c

@[simp] theorem set_chanOf (s : State) (h : Nat) : s.chans.set h (chanOf s h) = s.chans := by
  by_cases hh : h < s.chans.length
  · simp [chanOf, hh]
  · exact List.set_eq_of_length_le (Nat.le_of_not_lt hh)

/-- Storing the sign after the shadow writes both fields of the entry. -/
theorem setDir_setRamp_chans (h : Nat) (m : RampMode) (d : Direction) (s : State) :
    (setDir h d (setRamp h m s)).chans = s.chans.set h { chanOf s h with ramp := .mode m, dir := d } := by
  by_cases hh : h < s.chans.length
  · simp [setRamp, chanOf_setChan, hh, setChan_chans]
  · have hout : ∀ c, s.chans.set h c = s.chans := fun c => List.set_eq_of_length_le (Nat.le_of_not_lt hh)
    simp [hout]

@[simp] theorem setRampMode_chans (h : Nat) (m : RampMode) (s : State) :
    (setRampMode h m s).chans = s.chans.set h { chanOf s h with ramp := .mode m } := by
  simp [setRampMode]

@[simp] theorem moveToBody_chans (h : Nat) (pos vel : Word) (s : State) :
    (moveToBody h pos vel s).chans = s.chans.set h { chanOf s h with ramp := .mode .position } := by
  simp [moveToBody]

/-- A command writes no entry but its channel's. -/
theorem bodyOf_chans {i : Instr} {h : Nat} (s : State) (hi : handleOf i = some h) :
    (bodyOf i s).chans = s.chans.set h (entryAfter s.params i (chanOf s h)) := by
  cases i with
  | init | dgWrite | dgRead => cases hi
  | regWrite | regRead | fieldRead | fieldWrite | setAcceleration =>
    cases hi; simp [bodyOf, bodyRegWrite, bodyRegRead, bodyFieldRead, bodyFieldWrite, bodySetAcceleration, entryAfter]
  | rotate => cases hi; simp [bodyOf, bodyRotate, entryAfter]
  | moveTo => cases hi; simp [bodyOf, bodyMoveTo, entryAfter]
  | moveBy => cases hi; simp [bodyOf, bodyMoveBy, entryAfter]
  | setDirection => cases hi; exact (setDir_setRamp_chans ..).trans (by simp [entryAfter])
  | setVelocity => cases hi; simp [bodyOf, bodySetVelocity, entryAfter]
  | setPosition => cases hi; simp [bodyOf, bodySetPosition, entryAfter]

/-! ### The registers written -/

section Registers

variable {s t : State} {h : Nat} {a a' : Addr}

/-- Whether a write settles rests on the register table and the device law alone. -/
theorem SameSetting.writeSettles (hst : SameSetting s t) : WriteSettles t a ↔ WriteSettles s a := by
  simp [WriteSettles, hst.params, hst.oracle]

/-- The last of a row of accesses is a write that settles: its register holds the value. -/
theorem Accessed.deviceReg_writeReg {accs : List (Addr × AccessDir)} (ht : Accessed h accs s t) (v : Word)
    (hw : WriteSettles s a) : deviceReg (writeReg h a v t) (chanOf s h).cs a = some v := by
  rw [← ht.select]
  exact deviceReg_writeReg_same t h a v (ht.setting.writeSettles.mpr hw)

theorem deviceReg_setRampMode_same {accs : List (Addr × AccessDir)} (ht : Accessed h accs s t) (m : RampMode)
    (hw : WriteSettles s s.params.addr.rampmode) :
    deviceReg (setRampMode h m t) (chanOf s h).cs s.params.addr.rampmode = some (rampModeCode s.params m) := by
  simpa [setRampMode, ht.setting.params] using ht.deviceReg_writeReg (rampModeCode s.params m) hw

theorem deviceReg_setRampMode_ne (m : RampMode) (cs : Word) (hne : a ≠ s.params.addr.rampmode) :
    deviceReg (setRampMode h m s) cs a = deviceReg s cs a := by
  rw [setRampMode, deviceReg_setRamp, deviceReg_writeReg_ne s h _ _ cs a (.inr hne)]

/-- The events of a speed and a velocity mode sent (42_motion R152, R156). -/
theorem speedThenMode_history (h : Nat) (w : Word) (m : RampMode) (s : State) :
    let addr := s.params.addr
    ∃ rx1 rx2, (setRampMode h m (writeReg h addr.vmax w s)).history = s.history ++
      [⟨h, writeFrame addr.vmax w, rx1⟩, ⟨h, writeFrame addr.rampmode (rampModeCode s.params m), rx2⟩] := by
  simp [setRampMode]

/-- What a speed and a velocity mode sent leave in the two registers. -/
theorem speedThenMode_registers (h : Nat) (w : Word) (m : RampMode) (s : State) :
    let addr := s.params.addr
    let held := deviceReg (setRampMode h m (writeReg h addr.vmax w s)) (chanOf s h).cs
    (WriteSettles s addr.rampmode → held addr.rampmode = some (rampModeCode s.params m)) ∧
    (WriteSettles s addr.vmax → addr.vmax ≠ addr.rampmode → held addr.vmax = some w) := by
  refine ⟨deviceReg_setRampMode_same (accessed_writeReg ..) m, fun hw hne => ?_⟩
  rw [deviceReg_setRampMode_ne m _ (by simpa using hne)]
  exact (Accessed.refl h s).deviceReg_writeReg w hw

/-- What the writes of MOVE_TO, after a row of accesses, leave in the registers: the later one where two of the addresses are
one. -/
theorem Accessed.moveToBody_registers {accs : List (Addr × AccessDir)} (ht : Accessed h accs s t) (pos vel : Word) :
    let addr := s.params.addr
    let held := deviceReg (moveToBody h pos vel t) (chanOf s h).cs
    (WriteSettles s addr.xtarget → held addr.xtarget = some pos) ∧
    (WriteSettles s addr.vmax → addr.vmax ≠ addr.xtarget → held addr.vmax = some vel) ∧
    (WriteSettles s addr.rampmode → addr.rampmode ≠ addr.vmax → addr.rampmode ≠ addr.xtarget →
      held addr.rampmode = some s.params.rampCode.position) := by
  have hmode := ht.trans (accessed_setRampMode h .position t)
  have hspeed := hmode.trans (accessed_writeReg h s.params.addr.vmax vel _)
  rw [moveToBody, ht.setting.params]
  refine ⟨hspeed.deviceReg_writeReg pos, fun hw hx => ?_, fun hw hv hx => ?_⟩
  · rw [deviceReg_writeReg_ne _ _ _ _ _ _ (.inr hx)]
    exact hmode.deviceReg_writeReg vel hw
  · rw [deviceReg_writeReg_ne _ _ _ _ _ _ (.inr hx), deviceReg_writeReg_ne _ _ _ _ _ _ (.inr hv)]
    exact deviceReg_setRampMode_same ht .position hw

/-- The events of a read, and the value read in the second response (40_framer R111, R112). -/
theorem readReg_events (h : Nat) (a : Addr) (s : State) :
    ∃ rx1 rx2, (readReg h a s).history = s.history ++ [⟨h, readFrame a, rx1⟩, ⟨h, readFrame a, rx2⟩] ∧
      (readReg h a s).rdata = framePayload rx2 :=
  ⟨_, _, readReg_history s h a, readReg_rdata_eq_payload s h a⟩

/-- The events of the writes of MOVE_TO (42_motion R154). -/
theorem moveToBody_history (h : Nat) (pos vel : Word) (s : State) :
    let addr := s.params.addr
    ∃ rx1 rx2 rx3, (moveToBody h pos vel s).history = s.history ++
      [⟨h, writeFrame addr.rampmode s.params.rampCode.position, rx1⟩, ⟨h, writeFrame addr.vmax vel, rx2⟩,
       ⟨h, writeFrame addr.xtarget pos, rx3⟩] := by
  simp [moveToBody, setRampMode, rampModeCode]

end Registers

/-! ### The commands -/

/-- `t` is what command `i` on channel `h` leaves when its accesses have led to `u` and it completes with `RESULT` `x`. -/
structure CompletedFrom (i : Instr) (h : Nat) (x : Word) (s u t : State) : Prop where
  exec : exec i s = .next t
  finished : Finished i h s t
  chans : t.chans = s.chans.set h (entryAfter s.params i (chanOf s h))
  history : t.history = u.history
  result : t.result = x
  rdata : t.rdata = u.rdata
  tgt : t.tgt = u.tgt
  register : deviceReg t = deviceReg u

theorem completedFrom_of_body {i : Instr} {h : Nat} {x : Word} {s u : State} (hi : handleOf i = some h)
    (hbody : bodyOf i s = complete x u) (hready : Ready i s) (hunfaulted : Unfaulted i s) :
    ∃ t, CompletedFrom i h x s u t := by
  have hfinished := finished_bodyOf hi hunfaulted
  have hchans := bodyOf_chans s hi
  have hexec := exec_of_ready hready
  rw [hbody] at hfinished hchans hexec
  exact ⟨_, hexec, hfinished, hchans, rfl, rfl, rfl, rfl, rfl⟩

theorem rampModeCode_modeOfVelocity (p : Params) (v : Word) : rampModeCode p (modeOfVelocity v) =
    if v.toInt < 0 then p.rampCode.velocityNegative else p.rampCode.velocityPositive := by
  unfold modeOfVelocity
  split <;> rfl

theorem rampModeCode_modeOfDirection (p : Params) (fwd : Bool) : rampModeCode p (modeOfDirection fwd) =
    if fwd then p.rampCode.velocityPositive else p.rampCode.velocityNegative := by
  cases fwd <;> rfl

/-- Settles O22: the body is the speed, the mode and the completion. -/
theorem rotateWritesSpeedThenMode : Obligations.RotateWritesSpeedThenMode := by
  intro s h v hready hunfaulted p mag code m
  obtain ⟨rx1, rx2, hhistory⟩ := speedThenMode_history h (speedOf v) (modeOfVelocity v) s
  have hregisters := speedThenMode_registers h (speedOf v) (modeOfVelocity v) s
  obtain ⟨t, ht⟩ := completedFrom_of_body rfl rfl hready hunfaulted
  rw [rampModeCode_modeOfVelocity] at hhistory hregisters
  exact ⟨t, rx1, rx2, ht.exec, ht.finished, ht.history.trans hhistory, ht.result, ht.rdata.trans (by simp),
    ht.tgt.trans (by simp), ht.chans, ht.register ▸ hregisters⟩

/-- Settles O23: the body is the three writes and the completion. -/
theorem moveToWritesModeSpeedTarget : Obligations.MoveToWritesModeSpeedTarget := by
  intro s h pos vel hready hunfaulted p
  obtain ⟨rx1, rx2, rx3, hhistory⟩ := moveToBody_history h pos vel s
  have hregisters := (Accessed.refl h s).moveToBody_registers pos vel
  obtain ⟨t, ht⟩ := completedFrom_of_body rfl rfl hready hunfaulted
  exact ⟨t, rx1, rx2, rx3, ht.exec, ht.finished, ht.history.trans hhistory, ht.result, ht.rdata.trans (by simp),
    ht.tgt.trans (by simp), ht.chans, ht.register ▸ hregisters⟩

/-- Settles O24: the read leaves its value in `RDATA` and the target in `TGT`, and MOVE_TO's writes go on from there; of
XACTUAL they keep what the read left. -/
theorem moveByAddsToActualPosition : Obligations.MoveByAddsToActualPosition := by
  intro s h delta vel hready hunfaulted p
  let r := computeTarget delta (readReg h p.addr.xactual s)
  have hread : Accessed h [(p.addr.xactual, .read)] s r := (accessed_readReg ..).thenComputeTarget
  obtain ⟨rx1, rx2, hreads, hx⟩ := readReg_events h p.addr.xactual s
  obtain ⟨rx3, rx4, rx5, hwrites⟩ := moveToBody_history h r.tgt vel r
  obtain ⟨hxtarget, hvmax, hrampmode⟩ := hread.moveToBody_registers r.tgt vel
  obtain ⟨hcleared, hkept⟩ := deviceReg_readReg_same s h p.addr.xactual
  have hxactual (hne : p.addr.xactual ∉ [p.addr.rampmode, p.addr.vmax, p.addr.xtarget]) :
      deviceReg (moveToBody h r.tgt vel r) (chanOf s h).cs p.addr.xactual =
        deviceReg (readReg h p.addr.xactual s) (chanOf s h).cs p.addr.xactual :=
    (accessed_moveToBody h r.tgt vel r).regs _ _ (.inr (by simpa [moveAccesses, hread.setting.params] using hne))
  obtain ⟨t, ht⟩ := completedFrom_of_body (x := r.tgt) (u := moveToBody h r.tgt vel r) rfl rfl hready hunfaulted
  refine ⟨t, rx1, rx2, rx3, rx4, rx5, ?_⟩
  intro x
  rw [show x + delta = r.tgt from congrArg (· + delta) hx.symm, ht.register]
  refine ⟨ht.exec, ht.finished, ?_, ht.result, ht.tgt.trans (by simp), ht.rdata.trans ?_, ht.chans, hxtarget, hvmax,
    hrampmode, fun hne => ⟨fun hc => (hxactual hne).trans (hcleared hc), fun ho hc => (hxactual hne).trans ?_⟩⟩
  · rw [ht.history, hwrites, computeTarget_history, hreads]
    simp [hread.setting.params, p]
  · simp [r, hx, x]
  · rw [hkept ho hc, hx]

/-- Settles O25: as ROTATE, with the speed 0 first, and the sign stored. -/
theorem setDirectionZeroesSpeedFirst : Obligations.SetDirectionZeroesSpeedFirst := by
  intro s h fwd hready hunfaulted p code m d
  obtain ⟨rx1, rx2, hhistory⟩ := speedThenMode_history h 0 (modeOfDirection fwd) s
  have hregisters := speedThenMode_registers h 0 (modeOfDirection fwd) s
  obtain ⟨t, ht⟩ := completedFrom_of_body rfl rfl hready hunfaulted
  rw [rampModeCode_modeOfDirection] at hhistory hregisters
  exact ⟨t, rx1, rx2, ht.exec, ht.finished, ht.history.trans hhistory, ht.result, ht.rdata.trans (by simp),
    ht.tgt.trans (by simp), ht.chans, ht.register ▸ hregisters⟩

theorem policyInput_eq (policy : RangePolicy) (x : Int) :
    policyInput policy x = if policy = .clamp then max 0 (min x 100) else x := by
  cases policy with
  | pass | fail => rfl
  | clamp => simp only [policyInput, if_true]; omega

theorem signed_eq (dir : Direction) (q : Word) : signed dir q = if dir = .forward then q else 0 - q := by
  cases dir <;> rfl

/-- Settles O28: the writes of MOVE_TO at the scaled and signed position. -/
theorem setPositionMovesBySignedScale : Obligations.SetPositionMovesBySignedScale := by
  intro s h input hready hunfaulted p x q pos
  have hpos : signed (chanOf s h).dir (scaledPosition s.params input) = pos := by
    rw [signed_eq, scaledPosition, policyInput_eq]
  rw [← hpos]
  obtain ⟨rx1, rx2, rx3, hhistory⟩ :=
    moveToBody_history h (signed (chanOf s h).dir (scaledPosition s.params input)) (chanOf s h).vmax s
  have hregisters := (Accessed.refl h s).moveToBody_registers (signed (chanOf s h).dir (scaledPosition s.params input))
    (chanOf s h).vmax
  obtain ⟨t, ht⟩ := completedFrom_of_body rfl rfl hready hunfaulted
  exact ⟨t, rx1, rx2, rx3, ht.exec, ht.finished, ht.history.trans hhistory, ht.result, ht.rdata.trans (by simp),
    ht.tgt.trans (by simp), ht.chans, ht.register ▸ hregisters⟩

end Sys2Proof.Machine
end

section
/-! SUPPORT. The host port: STATUS, the register map, submission, and how three host writes put a command to run. -/

namespace Sys2Proof.Machine

/-! ### STATUS -/

/-- The number of an append: the right part has the low bits. -/
theorem toNat_append_eq_add {m n : Nat} (x : BitVec m) (y : BitVec n) : (x ++ y).toNat = x.toNat * 2 ^ n + y.toNat := by
  rw [BitVec.toNat_append, ← Nat.shiftLeft_add_eq_or_of_lt y.isLt, Nat.shiftLeft_eq]

/-- Settles O11: `STATUS` is the append of its fields, so each field counts from its lowest bit. -/
theorem statusLayout : Obligations.StatusLayout := by
  refine ⟨fun st => ?_, rfl, rfl, rfl, rfl, rfl, rfl⟩
  simp only [statusWord, toNat_append_eq_add, BitVec.toNat_ofBool, BitVec.toNat_ofNat]
  omega

/-! ### The register map and submission -/

/-- Settles O9: by the test of `BUSY` that every host write begins with. -/
theorem submissionLatchesDescriptor : Obligations.SubmissionLatchesDescriptor := by
  intro s v _
  refine ⟨fun hidle => ?_, fun hbusy idx => if_pos hbusy⟩
  have hwrite (idx : Nat) : hostWrite idx v s = hostWriteIdle idx v s := if_neg (by simp [hidle])
  exact ⟨hwrite 0, hwrite 1, hwrite 2⟩

theorem hostRead_above {idx : Nat} (s : State) (h : 6 ≤ idx) : hostRead s idx = 0 := by
  obtain ⟨n, rfl⟩ := Nat.exists_eq_add_of_le' h
  rfl

/-- Words 3 and above ignore writes (10_state R24). -/
theorem hostWrite_above {idx : Nat} (v : Word) (s : State) (h : 3 ≤ idx) : hostWrite idx v s = s := by
  obtain ⟨n, rfl⟩ := Nat.exists_eq_add_of_le' h
  exact ite_self s

/-- Settles O10: word by word. -/
theorem hostRegisterMap : Obligations.HostRegisterMap := fun s =>
  ⟨rfl, fun _ => ⟨rfl, rfl, rfl, rfl, rfl, fun _ h => hostRead_above s h, fun _ v h => hostWrite_above v s h,
    fun _ => rfl⟩⟩

/-- A free device may change a register, the reference device changes none (10_state R39, 60_exceptions R230). -/
theorem turn_deviceChange_cases (cs : Word) (a : Addr) (v : Word) (s : State) :
    (s.oracle = .free ∧ turn (.deviceChange cs a v) s = setDeviceReg cs a v s) ∨
    (s.oracle = .reference ∧ turn (.deviceChange cs a v) s = s) := by
  unfold turn deviceChangeTurn
  cases s.oracle with
  | free => exact .inl ⟨rfl, rfl⟩
  | reference => exact .inr ⟨rfl, rfl⟩

/-- Settles O16: a busy block ignores writes, a read goes to the host's log, and a device changes its own register alone. -/
theorem outsideMovesLeaveTheBlock : Obligations.OutsideMovesLeaveTheBlock := by
  intro s _
  refine ⟨fun hbusy acc => ?_, fun cs a v => ?_⟩
  · cases acc with
    | read idx => rfl
    | write idx v => rw [show turn (.host (.write idx v)) s = s from if_pos hbusy]
  · rcases turn_deviceChange_cases cs a v s with ⟨-, hturn⟩ | ⟨ho, hturn⟩
    · rw [hturn]
      exact ⟨rfl, fun _ => deviceReg_setDeviceReg_same s cs a v,
        fun cs' a' => deviceReg_setDeviceReg_ne s cs cs' a a' v⟩
    · rw [hturn]
      exact ⟨rfl, fun hfree => absurd (ho.symm.trans hfree) (by decide), fun _ _ _ => rfl⟩

/-! ### How a program comes to run -/

/-- A step of an idle block whose host is about to write. -/
theorem step_hostWrite {s : State} {idx : Nat} {v : Word} {rest : List HostAccess} (hselect : s.bus.select = false)
    (hphase : s.phase = .idle) (hbusy : s.status.busy = false) (hhost : s.host = .write idx v :: rest) :
    step s = .next (hostWriteIdle idx v { s with host := rest }) := by
  simp [step, hselect, hphase, hostTurn, hhost, hostAccess, hostWrite, hbusy]

/-- A run begins with a step. -/
theorem run_of_step {n : Nat} {s t : State} (h : step s = .next t) :
    Host.Core.run Sys2Proof.core (n + 1) s = Host.Core.run Sys2Proof.core n t := by
  have hcore : Sys2Proof.core.step s = .next t := h
  simp only [Host.Core.run, hcore]

/-- A run of one step. -/
theorem run_one (s : State) : Host.Core.run Sys2Proof.core 1 s = step s := by
  have hcore : Sys2Proof.core.step s = step s := rfl
  simp only [Host.Core.run, hcore]
  cases step s <;> rfl

/-- Settles O14: the three writes are three steps of the idle block, and the fourth is the decoded command's. -/
theorem submittedDescriptorRuns : Obligations.SubmittedDescriptorRuns := by
  intro s d rest _ hselect hphase hbusy hhost
  let s1 : State := { s with cmd1 := d.w1, host := .write 2 d.w2 :: .write 0 d.w0 :: rest }
  let s2 : State := { s1 with cmd2 := d.w2, host := .write 0 d.w0 :: rest }
  let s3 : State := submitted d { s with host := rest }
  have hfirst : step s = .next s1 := step_hostWrite hselect hphase hbusy hhost
  have hsecond : step s1 = .next s2 := step_hostWrite (s := s1) hselect hphase hbusy rfl
  have hthird : step s2 = .next s3 := step_hostWrite (s := s2) hselect hphase hbusy rfl
  have hrun (n : Nat) : Host.Core.run Sys2Proof.core (n + 3) s = Host.Core.run Sys2Proof.core n s3 :=
    (run_of_step hfirst).trans ((run_of_step hsecond).trans (run_of_step hthird))
  refine ⟨_, hrun 0, rfl, rfl, rfl, rfl, rfl, rfl, rfl, rfl, rfl, rfl, rfl, fun i hdecode => ?_⟩
  exact ((hrun 1).trans (run_one s3)).trans (step_of_decoded hselect rfl rfl hdecode)

end Sys2Proof.Machine
end

section
/-! SUPPORT. The reset state: its entries and cells, the invariant, and that no command but `INIT` finds a channel. -/

namespace Sys2Proof.Machine

@[simp] theorem chanOf_resetWith (p : Params) (h : Nat) : chanOf (State.resetWith p) h = Channel.reset := by
  by_cases hh : h < p.maxChannels <;> simp [chanOf, State.resetWith, hh]

theorem inv_resetWith {p : Params} (hp : p.wf = true) : (State.resetWith p).Inv where
  params := hp
  channels := by simp [State.resetWith]
  allocBound := Nat.zero_le _
  allocated h _ := by rw [chanOf_resetWith]; rfl
  chipSelects h hh := absurd hh (Nat.not_lt_zero h)
  notHold h := by rw [chanOf_resetWith]; decide
  mirrors := rfl
  notBoth := rfl
  outcome := rfl
  regs := wf_nil
  pends := wf_nil

/-- Settles O41: for any admissible parameters, those of the test configuration among them. -/
theorem resetMeetsInvariant : Obligations.ResetMeetsInvariant :=
  ⟨fun _ hp => ⟨rfl, inv_resetWith hp⟩, rfl, inv_resetWith (by decide)⟩

/-- Every command but `INIT` names a channel. -/
theorem init_or_handle {i : Instr} (hi : i.isCommand = true) : (∃ cs, i = .init cs) ∨ ∃ h, handleOf i = some h := by
  cases i with
  | init cs => exact .inl ⟨cs, rfl⟩
  | dgWrite | dgRead => cases hi
  | _ => exact .inr ⟨_, rfl⟩

/-- A handle that is not allocated fails the first check, whatever the other checks say (44_channel R201). -/
theorem exec_of_unallocated {i : Instr} {h : Nat} {s : State} (hi : handleOf i = some h) (hh : s.allocCount.toNat ≤ h) :
    exec i s = .next (failedState .badChannel 1 s) := by
  have hchannel : channelFailure i s = some (.badChannel, 1) := by simp [channelFailure, hi, hh]
  simp [exec_eq_guarded, guarded, precheck, hchannel, raise_eq_failedState]

/-- Settles O42: field by field, and `ALLOC_COUNT` is 0, so no handle is allocated. -/
theorem resetState : Obligations.ResetState := by
  intro p
  have hstatus : statusWord ⟨false, false, .ok, 0, false⟩ = 0 := by decide
  refine ⟨hstatus, rfl, rfl, rfl, rfl, rfl, rfl, rfl, rfl, rfl, rfl, rfl, chanOf_resetWith p, rfl, regDefault_regKey p,
    fun i hi hinit => ?_⟩
  rcases init_or_handle hi with ⟨cs, rfl⟩ | ⟨h, hh⟩
  · exact absurd rfl (hinit cs)
  · exact exec_of_unallocated hh (Nat.zero_le h)

end Sys2Proof.Machine
end

section
/-! SUPPORT. How commands end, and what no step changes: the completion of every command, the fault bit, the parameters, and
`RESULT` between completions. -/

namespace Sys2Proof.Machine

/-! ### Completion -/

/-- A command fails and changes nothing else, or allocates, or makes the accesses of its list; in each case it completes. -/
theorem exec_command_cases {i : Instr} (s : State) (hi : i.isCommand = true) :
    (∃ c d, legalOutcome c d = true ∧ c ≠ .ok ∧ exec i s = .next (failedState c d s)) ∨
    (∃ cs, i = .init cs ∧ exec i s = .next (complete s.allocCount (allocate cs s))) ∨
    (∃ h x u, handleOf i = some h ∧ Ready i s ∧ exec i s = .next (complete x u) ∧
      Accessed h (accessList s.params i) s u) := by
  rcases exec_cases i s with ⟨c, d, hlegal, hfail, -, hexec⟩ | ⟨hpass, hexec⟩
  · exact .inl ⟨c, d, hlegal, hfail, hexec⟩
  · rcases init_or_handle hi with ⟨cs, rfl⟩ | ⟨h, hh⟩
    · rw [bodyOf, initBody_eq] at hexec
      split at hexec
      · exact .inl ⟨_, _, rfl, by decide, hexec⟩
      · split at hexec
        · exact .inl ⟨_, _, rfl, by decide, hexec⟩
        · exact .inr (.inl ⟨cs, rfl, hexec⟩)
    · obtain ⟨x, u, hbody, hu⟩ := accessed_bodyOf s hh
      exact .inr (.inr ⟨h, x, u, hh, ready_of_precheck hpass, hbody ▸ hexec, hu⟩)

/-- Settles O37: each of the three ways to complete is idle with a legal outcome, and the accesses of a list are at most five
datagrams. -/
theorem everyCommandCompletes : Obligations.EveryCommandCompletes := by
  intro i s _ hi
  rcases exec_command_cases s hi with ⟨c, d, hlegal, -, hexec⟩ | ⟨cs, -, hexec⟩ | ⟨h, x, u, -, -, hexec, hu⟩
  · exact ⟨_, hexec, fun _ => ⟨rfl, rfl, rfl, hlegal, Nat.le_add_right ..⟩⟩
  · exact ⟨_, hexec, fun _ => ⟨rfl, rfl, rfl, rfl, Nat.le_add_right ..⟩⟩
  · refine ⟨_, hexec, fun _ => ⟨rfl, rfl, rfl, rfl, ?_⟩⟩
    rw [complete_k, hu.count, ← exchangeCount_eq_length s.params hi]
    exact Nat.add_le_add_left (exchangeCount_le i) _

/-- Settles O38: a ready command has no forbidden access to set the bit for. -/
theorem checkedCommandsStayGood : Obligations.CheckedCommandsStayGood := by
  intro i s t hi hchecked hexec hgood
  rcases exec_command_cases s hi with ⟨c, d, -, -, he⟩ | ⟨cs, -, he⟩ | ⟨h, x, u, -, hready, he, hu⟩
  · cases he.symm.trans hexec; exact hgood
  · cases he.symm.trans hexec; exact hgood
  · cases he.symm.trans hexec
    have hstatus := hu.status_of_permitted (hready.access hchecked)
    rw [State.Good, complete_status, hstatus]
    exact hgood

/-! ### The fault bit -/

/-- A run that ends in a good state begins in one (10_state R37). -/
theorem good_of_run {n : Nat} {s t : State} (h : Host.Core.run Sys2Proof.core n s = .next t) (ht : t.Good) : s.Good := by
  by_contra hs
  exact run_keeps (P := fun s => ¬ s.Good) (fun _ _ hstep => mt (updates_step hstep).good_of_good) n s t h hs ht

/-- Settles O39: no elementary change clears the bit. -/
theorem undefAccessIsSticky : Obligations.UndefAccessIsSticky := by
  refine ⟨fun s t hstep => (updates_step hstep).keeps fun _ _ hu => hu.undefAccess_sticky, ?_⟩
  intro n m s t u hst htu hend
  have ht := good_of_run htu hend.2
  exact ⟨ht, good_of_run hst ht⟩

theorem handle_of_forbidden {i : Instr} {s : State} (hf : forbiddenAccess i s = true) : ∃ h, handleOf i = some h := by
  cases i with
  | init | dgWrite | dgRead => cases hf
  | _ => exact ⟨_, rfl⟩

/-- Settles O60: a ready command that has a forbidden access is not checked; its body makes the accesses all the same and sets
the bit, which no run clears. -/
theorem uncheckedViolationFaultsRun : Obligations.UncheckedViolationFaultsRun := by
  intro i s _ hready hforbidden
  obtain ⟨h, hh⟩ := handle_of_forbidden hforbidden
  obtain ⟨x, u, hbody, hu⟩ := accessed_bodyOf s hh
  obtain ⟨evs, hhistory, hdatagrams, -⟩ := hu.events
  have hfault : (complete x u).status.undefAccess = true := by
    rw [complete_status, hu.status]
    exact Bool.or_eq_true_iff.mpr (.inr hforbidden)
  have hbad : ¬ (complete x u).Good := fun hgood => Bool.false_ne_true (hgood.symm.trans hfault)
  refine ⟨?_, complete x u, evs, hbody ▸ exec_of_ready hready, ?_, hbad, hhistory, hdatagrams, ?_⟩
  · by_contra hchecked
    obtain ⟨e, he, hbit⟩ := List.any_eq_true.mp hforbidden
    simp [hready.access (by simpa using hchecked) e he] at hbit
  · exact congrArg (Status.mk false true .ok 0) hfault
  · exact fun n v hrun hend => hbad (good_of_run hrun hend.2)

/-! ### Parameters -/

theorem Update.keeps_params {s t : State} (h : Update s t) : t.params = s.params ∧ t.oracle = s.oracle := by
  cases h with
  | flag | answer => simp
  | _ => exact ⟨rfl, rfl⟩

/-- Settles O43: no elementary change writes either. -/
theorem parametersNeverChange : Obligations.ParametersNeverChange := by
  intro s t hstep _
  refine (updates_step hstep).keeps (P := fun u => u.params = s.params ∧ u.oracle = s.oracle) ?_ ⟨rfl, rfl⟩
  exact fun _ _ hu hs => ⟨hu.keeps_params.1.trans hs.1, hu.keeps_params.2.trans hs.2⟩

/-! ### `RESULT` -/

/-- Going from `s` to `t` has kept `RESULT` or completed a command (10_state R22). -/
def KeepsOrCompletes (s t : State) : Prop :=
  t.result = s.result ∨ t.phase = .idle ∧ t.status.busy = false ∧ t.status.done = true

@[simp] theorem keepsOrCompletes_complete (s : State) (x : Word) (u : State) : KeepsOrCompletes s (complete x u) :=
  .inr ⟨rfl, rfl, rfl⟩

@[simp] theorem keepsOrCompletes_raise (s : State) (c : StatusCode) (d : BitVec 4) (u : State) :
    KeepsOrCompletes s (raise c d u) := .inr ⟨rfl, rfl, rfl⟩

@[simp] theorem keepsOrCompletes_sendWrite (h : Nat) (a : Addr) (v : Word) (s : State) :
    KeepsOrCompletes s (sendWrite h a v s) := .inl (by simp [sendWrite])

@[simp] theorem keepsOrCompletes_sendRead (h : Nat) (a : Addr) (s : State) : KeepsOrCompletes s (sendRead h a s) :=
  .inl (by simp [sendRead])

@[simp] theorem keepsOrCompletes_resendRead (h : Nat) (a : Addr) (s : State) : KeepsOrCompletes s (resendRead h a s) :=
  .inl rfl

theorem keepsOrCompletes_moveToTurn (h : Nat) (pos vel x : Word) (n : Nat) (s : State) :
    KeepsOrCompletes s (moveToTurn h pos vel x n s) := by
  unfold moveToTurn
  split
  · exact keepsOrCompletes_sendWrite ..
  · exact keepsOrCompletes_sendWrite h _ vel (setRamp h .position s)
  · exact keepsOrCompletes_sendWrite ..
  · exact keepsOrCompletes_complete ..

theorem keepsOrCompletes_initBody (cs : Word) (s : State) : KeepsOrCompletes s (initBody cs s) := by
  rw [initBody_eq]
  split
  · exact keepsOrCompletes_raise ..
  · split
    · exact keepsOrCompletes_raise ..
    · exact keepsOrCompletes_complete ..

/-- The sequencer's move in a command starts an exchange or completes. -/
theorem keepsOrCompletes_commandTurn (i : Instr) (n : Nat) (s : State) : KeepsOrCompletes s (commandTurn i n s) := by
  cases i with
  | init cs => exact keepsOrCompletes_initBody cs s
  | regWrite | regRead | fieldRead | rotate | setDirection | setVelocity | setAcceleration =>
    rcases n with _ | _ | n <;> simp [commandTurn]
  | fieldWrite h a sh mask v =>
    match n with
    | 0 => exact keepsOrCompletes_sendRead ..
    | 1 => exact keepsOrCompletes_resendRead ..
    | 2 => exact keepsOrCompletes_sendWrite h a _ (latchRead s)
    | _ + 3 => exact keepsOrCompletes_complete ..
  | moveTo | setPosition => exact keepsOrCompletes_moveToTurn ..
  | moveBy h delta vel =>
    match n with
    | 0 => exact keepsOrCompletes_sendRead ..
    | 1 => exact keepsOrCompletes_resendRead ..
    | 2 => exact keepsOrCompletes_moveToTurn h 0 vel 0 0 (computeTarget delta (latchRead s))
    | _ + 3 => exact keepsOrCompletes_moveToTurn ..
  | dgWrite | dgRead => exact .inl rfl

theorem keepsOrCompletes_busyTurn (s : State) : KeepsOrCompletes s (busyTurn s) := by
  unfold busyTurn decodedTurn
  split
  · next r _ => cases r <;> exact keepsOrCompletes_raise ..
  · split
    · split
      · exact keepsOrCompletes_raise ..
      · exact keepsOrCompletes_commandTurn ..
    · exact keepsOrCompletes_commandTurn ..

/-- The sequencer stands still or, while busy, moves (40_framer R102). -/
theorem sequencerTurn_cases (s : State) :
    sequencerTurn s = s ∨ s.phase = .busy ∧ sequencerTurn s = busyTurn s := by
  unfold sequencerTurn
  split
  · exact .inl rfl
  · split
    · exact .inl rfl
    · next hphase => exact .inr ⟨hphase, rfl⟩

theorem hostWrite_result (idx : Nat) (v : Word) (s : State) : (hostWrite idx v s).result = s.result := by
  unfold hostWrite hostWriteIdle
  split
  · rfl
  · split <;> rfl

theorem deviceTurn_result (s : State) : (deviceTurn s).result = s.result := by
  unfold deviceTurn
  split
  · exact answer_result _ s
  · rfl

/-- Settles O48: no host access, device or idle sequencer writes `RESULT`, and a busy sequencer keeps it or completes. -/
theorem resultWrittenAtCompletion : Obligations.ResultWrittenAtCompletion := by
  intro m s _ hchanged
  cases m with
  | host acc =>
    cases acc with
    | read idx => exact absurd rfl hchanged
    | write idx v => exact absurd (hostWrite_result idx v s) hchanged
  | device => exact absurd (deviceTurn_result s) hchanged
  | deviceChange cs a v =>
    rcases turn_deviceChange_cases cs a v s with ⟨-, hturn⟩ | ⟨-, hturn⟩
    · exact absurd (congrArg State.result hturn) hchanged
    · exact absurd (congrArg State.result hturn) hchanged
  | sequencer =>
    change (sequencerTurn s).result ≠ s.result at hchanged
    rcases sequencerTurn_cases s with hstill | ⟨hbusy, hturn⟩
    · exact absurd (congrArg State.result hstill) hchanged
    · rw [hturn] at hchanged
      have hcompleted := (keepsOrCompletes_busyTurn s).resolve_left hchanged
      rw [← hturn] at hcompleted
      exact ⟨rfl, hbusy, hcompleted⟩

end Sys2Proof.Machine
end

section
/-! SUPPORT. What an instruction leaves of the channel file: which entries and which of their fields. -/

namespace Sys2Proof.Machine

variable {i : Instr} {s t : State}

@[simp] theorem entryAfter_alloc (p : Params) (i : Instr) (c : Channel) : (entryAfter p i c).alloc = c.alloc := by
  cases i <;> rfl

@[simp] theorem entryAfter_cs (p : Params) (i : Instr) (c : Channel) : (entryAfter p i c).cs = c.cs := by
  cases i <;> rfl

/-- The sign is SET_DIRECTION's alone (10_state R35). -/
theorem entryAfter_dir {h : Nat} (p : Params) (c : Channel) (hi : handleOf i = some h)
    (hother : ∀ fwd, i ≠ .setDirection h fwd) : (entryAfter p i c).dir = c.dir := by
  cases i with
  | setDirection h' fwd => cases hi; exact absurd rfl (hother fwd)
  | _ => rfl

/-- The stored speed is SET_VELOCITY's alone (10_state R36). -/
theorem entryAfter_vmax {h : Nat} (p : Params) (c : Channel) (hi : handleOf i = some h)
    (hother : ∀ input, i ≠ .setVelocity h input) : (entryAfter p i c).vmax = c.vmax := by
  cases i with
  | setVelocity h' input => cases hi; exact absurd rfl (hother input)
  | _ => rfl

/-- The channel file is as before, but for the entry of the instruction's own channel. -/
structure FileKept (i : Instr) (s t : State) : Prop where
  alloc : t.allocCount = s.allocCount
  size : t.chans.length = s.chans.length
  entry : ∀ h, chanOf t h = chanOf s h ∨ handleOf i = some h ∧ chanOf t h = entryAfter s.params i (chanOf s h)

theorem fileKept_of_chans (halloc : t.allocCount = s.allocCount) (hchans : t.chans = s.chans) : FileKept i s t :=
  ⟨halloc, by rw [hchans], fun h => .inl (chanOf_congr hchans h)⟩

/-- The body of a command on a channel writes that channel's entry at most. -/
theorem fileKept_bodyOf {h : Nat} (hi : handleOf i = some h) : FileKept i s (bodyOf i s) := by
  have hchans := bodyOf_chans s hi
  obtain ⟨x, u, hbody, hu⟩ := accessed_bodyOf s hi
  refine ⟨by rw [hbody]; exact hu.alloc, by simp [hchans], fun h' => ?_⟩
  rw [chanOf_congr (s := setChan h _ s) hchans, chanOf_setChan]
  split
  · next heq => exact .inr ⟨heq.1 ▸ hi, by rw [heq.1]⟩
  · exact .inl rfl

theorem fileKept_of_exec (hinit : ∀ cs, i ≠ .init cs) (hexec : exec i s = .next t) : FileKept i s t := by
  rcases exec_cases i s with ⟨c, d, -, -, -, he⟩ | ⟨-, he⟩
  · cases he.symm.trans hexec
    exact fileKept_of_chans rfl rfl
  · cases he.symm.trans hexec
    cases i with
    | init cs => exact absurd rfl (hinit cs)
    | dgWrite | dgRead => exact fileKept_of_chans (answer_allocCount ..) (answer_chans ..)
    | _ => exact fileKept_bodyOf rfl

/-- Settles O44: the entry written keeps its allocation and its chip-select. -/
theorem onlyInitAllocates : Obligations.OnlyInitAllocates := by
  intro i s t hinit hexec _
  have hfile := fileKept_of_exec hinit hexec
  refine ⟨hfile.alloc, hfile.size, fun h => ?_⟩
  rcases hfile.entry h with heq | ⟨-, heq⟩ <;> simp [heq]

/-- Settles O45: the entry written is the instruction's own channel's, and each field has its one writer. -/
theorem storedSignAndSpeedWriters : Obligations.StoredSignAndSpeedWriters := by
  intro i s t hinit hexec _ h
  rcases (fileKept_of_exec hinit hexec).entry h with heq | ⟨hi, heq⟩
  · exact ⟨fun _ => by rw [heq], fun _ => by rw [heq]⟩
  · rw [heq]
    exact ⟨entryAfter_dir s.params _ hi, entryAfter_vmax s.params _ hi⟩

end Sys2Proof.Machine
end

section
/-! SUPPORT. What nothing reads: two states that differ in ramp-mode shadows, or in the scratch registers, run alike (O46, O47). -/

namespace Sys2Proof.Machine

/-- An entry of the channel file as the block reads it: without its shadow (10_state R34). -/
def Channel.blind (c : Channel) : Channel := { c with ramp := .unknown }

/-- `s'` is `s` but for shadows, unless `sameFile`, and for the scratch registers, unless `sameScratch`. -/
structure Alike (sameFile sameScratch : Prop) (s s' : State) : Prop where
  rest : s' = { s with chans := s'.chans, rdata := s'.rdata, tgt := s'.tgt }
  entries : s'.chans.map Channel.blind = s.chans.map Channel.blind
  file : sameFile → s'.chans = s.chans
  scratch : sameScratch → s'.rdata = s.rdata ∧ s'.tgt = s.tgt

/-! ### What a blind entry still shows -/

theorem eq_but_ramp_of_blind {c c' : Channel} (h : c'.blind = c.blind) : { c' with ramp := c.ramp } = c := by
  cases c
  cases c'
  simp_all [Channel.blind]

theorem blind_chanOf (s : State) (h : Nat) :
    (chanOf s h).blind = ((s.chans.map Channel.blind)[h]?).getD Channel.reset := by
  rw [chanOf, List.getElem?_map]
  cases s.chans[h]? <;> rfl

variable {sameFile sameScratch : Prop} {s s' : State}

section Views

variable (hs : Alike sameFile sameScratch s s')
include hs

theorem Alike.params : s'.params = s.params := (congrArg State.params hs.rest :)
theorem Alike.allocCount : s'.allocCount = s.allocCount := (congrArg State.allocCount hs.rest :)
theorem Alike.bus : s'.bus = s.bus := (congrArg State.bus hs.rest :)

theorem Alike.chanOf_blind (h : Nat) : (chanOf s' h).blind = (chanOf s h).blind := by
  rw [blind_chanOf, blind_chanOf, hs.entries]

theorem Alike.chanOf_cs (h : Nat) : (chanOf s' h).cs = (chanOf s h).cs :=
  (congrArg Channel.cs (hs.chanOf_blind h) :)

theorem Alike.chanOf_dir (h : Nat) : (chanOf s' h).dir = (chanOf s h).dir :=
  (congrArg Channel.dir (hs.chanOf_blind h) :)

theorem Alike.chanOf_vmax (h : Nat) : (chanOf s' h).vmax = (chanOf s h).vmax :=
  (congrArg Channel.vmax (hs.chanOf_blind h) :)

end Views

/-! ### Operations that neither look at the file and the scratch registers nor write them -/

/-- A device's act looks at none of it. -/
theorem deviceAct_hidden (s : State) (c : List Channel) (x y cs : Word) (tx : Frame) :
    deviceAct cs tx { s with chans := c, rdata := x, tgt := y } =
      { deviceAct cs tx s with chans := c, rdata := x, tgt := y } := by
  rcases s with ⟨_, (_ | _)⟩ <;> unfold deviceAct <;> split <;> rfl

section Operations

variable (hs : Alike sameFile sameScratch s s')
include hs

/-- Such an operation, told by how it acts on the two states, leaves them alike. -/
theorem Alike.operation {f : State → State}
    (hf : ∀ x y c, (∀ h, (chanOf { s with chans := c } h).cs = (chanOf s h).cs) →
      f { s with chans := c, rdata := x, tgt := y } = { f s with chans := c, rdata := x, tgt := y })
    (hchans : (f s).chans = s.chans) (hrdata : (f s).rdata = s.rdata) (htgt : (f s).tgt = s.tgt) :
    Alike sameFile sameScratch (f s) (f s') := by
  have hf' : f s' = { f s with chans := s'.chans, rdata := s'.rdata, tgt := s'.tgt } :=
    (congrArg f hs.rest).trans (hf _ _ _ hs.chanOf_cs)
  rw [hf']
  exact ⟨rfl, by rw [hchans]; exact hs.entries, by rw [hchans]; exact hs.file, by rw [hrdata, htgt]; exact hs.scratch⟩

theorem Alike.keeps_complete (x : Word) : Alike sameFile sameScratch (complete x s) (complete x s') :=
  hs.operation (f := complete x) (fun _ _ _ _ => rfl) rfl rfl rfl

theorem Alike.keeps_raise (c : StatusCode) (d : BitVec 4) : Alike sameFile sameScratch (raise c d s) (raise c d s') :=
  hs.operation (f := raise c d) (fun _ _ _ _ => rfl) rfl rfl rfl

theorem Alike.keeps_flagAccess (a : Addr) (dir : AccessDir) :
    Alike sameFile sameScratch (flagAccess a dir s) (flagAccess a dir s') :=
  hs.operation (f := flagAccess a dir) (fun _ _ _ _ => by unfold flagAccess; split <;> rfl)
    (by simp) (by simp) (by simp)

theorem Alike.keeps_answer (tx : Frame) : Alike sameFile sameScratch (answer tx s) (answer tx s') := by
  refine hs.operation (f := answer tx) (fun x y c _ => ?_) (by simp) (by simp) (by simp)
  rw [answer, deviceAct_hidden]
  rfl

theorem Alike.keeps_exchange (h : Nat) (tx : Frame) : Alike sameFile sameScratch (exchange h tx s) (exchange h tx s') := by
  have hselect : Alike sameFile sameScratch (assertSelect h tx s) (assertSelect h tx s') :=
    hs.operation (f := assertSelect h tx) (fun x y c hc => by simp only [assertSelect]; rw [← hc]; rfl) rfl rfl rfl
  exact hselect.keeps_answer tx

theorem Alike.keeps_writeReg (h : Nat) (a : Addr) (v : Word) :
    Alike sameFile sameScratch (writeReg h a v s) (writeReg h a v s') := (hs.keeps_flagAccess a .write).keeps_exchange h _

/-- The latch of a read writes `RDATA` from the bus, whatever was there. -/
theorem Alike.keeps_latchRead : Alike sameFile sameScratch (latchRead s) (latchRead s') ∧
    (latchRead s').rdata = (latchRead s).rdata := by
  have hvalue : (latchRead s').rdata = (latchRead s).rdata := by rw [latchRead_rdata, latchRead_rdata, hs.bus]
  refine ⟨⟨?_, hs.entries, hs.file, fun hsame => ⟨hvalue, (hs.scratch hsame).2⟩⟩, hvalue⟩
  rw [hvalue]
  exact congrArg latchRead hs.rest

theorem Alike.keeps_readReg (h : Nat) (a : Addr) : Alike sameFile sameScratch (readReg h a s) (readReg h a s') ∧
    (readReg h a s').rdata = (readReg h a s).rdata :=
  (((hs.keeps_flagAccess a .read).keeps_exchange h (readFrame a)).keeps_exchange h (readFrame a)).keeps_latchRead

/-- So does the computation of a target to `TGT`, where the values read agree. -/
theorem Alike.keeps_computeTarget (delta : Word) (hvalue : s'.rdata = s.rdata) :
    Alike sameFile sameScratch (computeTarget delta s) (computeTarget delta s') ∧
    (computeTarget delta s').tgt = (computeTarget delta s).tgt := by
  have htarget : (computeTarget delta s').tgt = (computeTarget delta s).tgt := by
    rw [computeTarget_tgt, computeTarget_tgt, hvalue]
  exact ⟨⟨(congrArg (computeTarget delta) hs.rest :), hs.entries, hs.file, fun _ => ⟨hvalue, htarget⟩⟩, htarget⟩

/-! ### Operations that write the file -/

theorem Alike.keeps_setChan {c c' : Channel} (h : Nat) (hblind : c'.blind = c.blind) (hsame : sameFile → c' = c) :
    Alike sameFile sameScratch (setChan h c s) (setChan h c' s') where
  rest := (congrArg (setChan h c') hs.rest :)
  entries := by simp [setChan_chans, List.map_set, hs.entries, hblind]
  file hfile := by simp [setChan_chans, hs.file hfile, hsame hfile]
  scratch := hs.scratch

theorem Alike.keeps_setRamp (h : Nat) (m : RampMode) : Alike sameFile sameScratch (setRamp h m s) (setRamp h m s') :=
  hs.keeps_setChan h (congrArg (fun c => { c with ramp := .unknown }) (hs.chanOf_blind h) :) fun hfile => by
    rw [chanOf_congr (hs.file hfile)]

theorem Alike.keeps_setDir (h : Nat) (d : Direction) : Alike sameFile sameScratch (setDir h d s) (setDir h d s') :=
  hs.keeps_setChan h (congrArg (fun c => { c with dir := d }) (hs.chanOf_blind h) :) fun hfile => by
    rw [chanOf_congr (hs.file hfile)]

theorem Alike.keeps_setVmax (h : Nat) (v : Word) : Alike sameFile sameScratch (setVmax h v s) (setVmax h v s') :=
  hs.keeps_setChan h (congrArg (fun c => { c with vmax := v }) (hs.chanOf_blind h) :) fun hfile => by
    rw [chanOf_congr (hs.file hfile)]

theorem Alike.keeps_allocate (cs : Word) : Alike sameFile sameScratch (allocate cs s) (allocate cs s') := by
  have hset := hs.keeps_setChan s.allocCount.toNat (c := freshChannel cs) (c' := freshChannel cs) rfl fun _ => rfl
  have hcount := hset.operation (f := fun u => { u with allocCount := s.allocCount + 1 }) (fun _ _ _ _ => rfl) rfl rfl rfl
  rw [allocate, allocate, hs.allocCount]
  exact hcount

theorem Alike.keeps_setRampMode (h : Nat) (m : RampMode) :
    Alike sameFile sameScratch (setRampMode h m s) (setRampMode h m s') := by
  rw [setRampMode, setRampMode, hs.params]
  exact (hs.keeps_writeReg h _ _).keeps_setRamp h m

theorem Alike.keeps_moveToBody (h : Nat) (pos vel : Word) :
    Alike sameFile sameScratch (moveToBody h pos vel s) (moveToBody h pos vel s') := by
  rw [moveToBody, moveToBody, hs.params]
  exact ((hs.keeps_setRampMode h .position).keeps_writeReg h _ vel).keeps_writeReg h _ pos

theorem Alike.keeps_initBody (cs : Word) : Alike sameFile sameScratch (initBody cs s) (initBody cs s') := by
  rw [initBody_eq, initBody_eq, hs.allocCount, hs.params]
  split
  · exact hs.keeps_raise ..
  · split
    · exact hs.keeps_raise ..
    · exact (hs.keeps_allocate cs).keeps_complete _

/-! ### Instructions -/

theorem Alike.keeps_bodyOf (i : Instr) : Alike sameFile sameScratch (bodyOf i s) (bodyOf i s') := by
  cases i with
  | init cs => exact hs.keeps_initBody cs
  | regWrite h a v => exact (hs.keeps_writeReg h a v).keeps_complete 0
  | regRead h a =>
    obtain ⟨hread, hvalue⟩ := hs.keeps_readReg h a
    simp only [bodyOf, bodyRegRead, hvalue]
    exact hread.keeps_complete _
  | fieldRead h a sh mask =>
    obtain ⟨hread, hvalue⟩ := hs.keeps_readReg h a
    simp only [bodyOf, bodyFieldRead, hvalue]
    exact hread.keeps_complete _
  | fieldWrite h a sh mask v =>
    obtain ⟨hread, hvalue⟩ := hs.keeps_readReg h a
    simp only [bodyOf, bodyFieldWrite, hvalue]
    exact (hread.keeps_writeReg h a _).keeps_complete 0
  | rotate h v =>
    simp only [bodyOf, bodyRotate, hs.params]
    exact ((hs.keeps_writeReg h _ _).keeps_setRampMode h _).keeps_complete 0
  | moveTo h pos vel => exact (hs.keeps_moveToBody h pos vel).keeps_complete 0
  | moveBy h delta vel =>
    obtain ⟨hread, hvalue⟩ := hs.keeps_readReg h s.params.addr.xactual
    obtain ⟨htarget, hsame⟩ := hread.keeps_computeTarget delta hvalue
    simp only [bodyOf, bodyMoveBy, hs.params, hsame]
    exact (htarget.keeps_moveToBody h _ vel).keeps_complete _
  | setDirection h fwd =>
    simp only [bodyOf, bodySetDirection, hs.params]
    exact (((hs.keeps_writeReg h _ _).keeps_setRampMode h _).keeps_setDir h _).keeps_complete 0
  | setVelocity h p =>
    simp only [bodyOf, bodySetVelocity, hs.params]
    exact (((hs.keeps_writeReg h _ _).keeps_writeReg h _ _).keeps_setVmax h _).keeps_complete 0
  | setAcceleration h p =>
    simp only [bodyOf, bodySetAcceleration, hs.params]
    exact ((hs.keeps_writeReg h _ _).keeps_writeReg h _ _).keeps_complete 0
  | setPosition h p =>
    simp only [bodyOf, bodySetPosition, hs.params, hs.chanOf_dir, hs.chanOf_vmax]
    exact (hs.keeps_moveToBody h _ _).keeps_complete 0
  | dgWrite a v => exact hs.keeps_answer _
  | dgRead a payload => exact hs.keeps_answer _

/-- The pre-check looks at the parameters and `ALLOC_COUNT` alone. -/
theorem Alike.precheck_eq (i : Instr) : precheck i s' = precheck i s := by
  simp only [precheck, channelFailure, rangeFailure, accessFailure, hs.params, hs.allocCount]

theorem Alike.keeps_exec {i : Instr} {t : State} (hexec : exec i s = .next t) :
    ∃ t', exec i s' = .next t' ∧ Alike sameFile sameScratch t t' := by
  rw [exec_eq_guarded, guarded] at hexec ⊢
  rw [hs.precheck_eq i]
  split at hexec
  · cases hexec; exact ⟨_, rfl, hs.keeps_raise ..⟩
  · cases hexec; exact ⟨_, rfl, hs.keeps_bodyOf i⟩

end Operations

theorem Alike.refl (s : State) : Alike sameFile sameScratch s s := ⟨rfl, rfl, fun _ => rfl, fun _ => ⟨rfl, rfl⟩⟩

theorem setChan_chanOf (h : Nat) (s : State) : setChan h (chanOf s h) s = s := by
  rw [setChan, set_chanOf]

/-- Settles O46: with a shadow replaced the states are alike but for shadows, and stay so. -/
theorem rampShadowIsNeverRead : Obligations.RampShadowIsNeverRead := by
  intro i s t h m hexec _
  have hstart : Alike False True s (setRamp h m s) := by
    have hset := (Alike.refl s).keeps_setChan (sameFile := False) (sameScratch := True) h (c := chanOf s h)
      (c' := { chanOf s h with ramp := .mode m }) rfl nofun
    rwa [setChan_chanOf] at hset
  obtain ⟨t', hexec', ht⟩ := hstart.keeps_exec hexec
  obtain ⟨hrdata, htgt⟩ := ht.scratch trivial
  have hlength : t'.chans.length = t.chans.length := by simpa using congrArg List.length ht.entries
  refine ⟨t', hexec', ?_, hlength, fun h' => eq_but_ramp_of_blind (ht.chanOf_blind h')⟩
  rw [ht.rest, hrdata, htgt]

/-- Settles O47: with the scratch registers replaced the states are alike but for these, and stay so. -/
theorem scratchRegistersUnobservable : Obligations.ScratchRegistersUnobservable := by
  intro i s t x y hexec _
  have hstart : Alike True False s { s with rdata := x, tgt := y } := ⟨rfl, rfl, fun _ => rfl, nofun⟩
  obtain ⟨t', hexec', ht⟩ := hstart.keeps_exec hexec
  refine ⟨t', hexec', ?_, (congrArg State.regs ht.rest :), (congrArg State.pends ht.rest :)⟩
  have hobserve : observe t' = { observe t with chans := t'.chans } := (congrArg observe ht.rest :)
  rw [hobserve, ht.file trivial]
  rfl

end Sys2Proof.Machine
end

section
/-! SUPPORT. A frame's bytes and the order of its bits on the wire (O6). -/

namespace Sys2Proof.Machine

/-- A byte is the field just below the bits before it. -/
theorem extractLsb'_append_frameByte (f : Frame) (n j : Nat) (hj : j ≤ 4) :
    f.extractLsb' (40 - 8 * j) n ++ frameByte f j = f.extractLsb' (32 - 8 * j) (n + 8) :=
  BitVec.extractLsb'_append_extractLsb'_eq_extractLsb' (by omega)

/-- The bits above byte 2, followed by the last three bytes, are one field down to bit 0. -/
theorem extractLsb'_append_lastBytes (f : Frame) (n : Nat) :
    f.extractLsb' 24 n ++ frameByte f 2 ++ frameByte f 3 ++ frameByte f 4 = f.extractLsb' 0 (n + 8 + 8 + 8) := by
  have happend := extractLsb'_append_frameByte f
  calc
    _ = f.extractLsb' 16 (n + 8) ++ frameByte f 3 ++ frameByte f 4 := by rw [← happend n 2 (by omega)]
    _ = f.extractLsb' 8 (n + 8 + 8) ++ frameByte f 4 := by rw [← happend (n + 8) 3 (by omega)]
    _ = f.extractLsb' 0 (n + 8 + 8 + 8) := happend (n + 8 + 8) 4 (by omega)

/-- The bytes are adjacent fields from bit 39 down, so appending them gives the whole frame. -/
theorem append_frameBytes (f : Frame) :
    (frameByte f 0 ++ frameByte f 1 ++ frameByte f 2 ++ frameByte f 3 ++ frameByte f 4 : BitVec 40) = f := by
  have hfirst : frameByte f 0 ++ frameByte f 1 = f.extractLsb' 24 16 := extractLsb'_append_frameByte f 8 1 (by omega)
  rw [hfirst]
  exact (extractLsb'_append_lastBytes f 16).trans BitVec.extractLsb'_eq_self

/-- The payload is the four bytes after the first, most significant first (20_memory R55). -/
theorem framePayload_eq_append_frameBytes (f : Frame) :
    framePayload f = (frameByte f 1 ++ frameByte f 2 ++ frameByte f 3 ++ frameByte f 4 : BitVec 32) :=
  (extractLsb'_append_lastBytes f 8).symm

@[simp] theorem length_frameBits (f : Frame) : (frameBits f).length = 40 := by simp [frameBits]

theorem getElem?_frameBits (f : Frame) {i : Nat} (hi : i < 40) : (frameBits f)[i]? = some (f.getLsbD (39 - i)) := by
  simp [frameBits, hi]

theorem frameOfBits_append_singleton (bs : List Bool) (b : Bool) :
    frameOfBits (bs ++ [b]) = (frameOfBits bs <<< 1) ||| (BitVec.ofBool b).zeroExtend 40 := by
  simp [frameOfBits]

/-- With the bits above bit `n` held, shifting in bit `n` leaves the bits from `n` up held. -/
theorem shiftIn_ushiftRight (f : Frame) (n : Nat) :
    ((f >>> (n + 1)) <<< 1) ||| (BitVec.ofBool (f.getLsbD n)).zeroExtend 40 = f >>> n := by
  apply BitVec.eq_of_getLsbD_eq
  rintro (_ | j) hj
  · simp
  · simp [show n + 1 + j = n + (j + 1) by omega, hj]

/-- The receiver's invariant (20_memory R56): after the first `n` bits it holds the frame's top `n` bits. -/
theorem frameOfBits_firstBits (f : Frame) (n : Nat) (hn : n ≤ 40) :
    frameOfBits ((List.range n).map fun i => f.getLsbD (39 - i)) = f >>> (40 - n) := by
  induction n with
  | zero => exact (BitVec.ushiftRight_eq_zero (Nat.le_refl 40)).symm
  | succ n ih =>
    rw [List.range_succ, List.map_append, List.map_singleton, frameOfBits_append_singleton, ih (by omega),
      show 40 - n = 39 - n + 1 by omega, shiftIn_ushiftRight, Nat.succ_sub_succ]

/-- After all forty bits nothing is left to shift in. -/
@[simp] theorem frameOfBits_frameBits (f : Frame) : frameOfBits (frameBits f) = f := by
  simpa [frameBits] using frameOfBits_firstBits f 40 (Nat.le_refl _)

/-- Settles O6: the bytes are adjacent fields, and the receiver holds the bits that have arrived. -/
theorem frameBytesAndBitOrder : Obligations.FrameBytesAndBitOrder := fun f =>
  ⟨(append_frameBytes f).symm, framePayload_eq_append_frameBytes f, length_frameBits f, fun _ => getElem?_frameBits f,
    frameOfBits_frameBits f⟩

end Sys2Proof.Machine
end

section
/-! SUPPORT. Decoder and encoder (O1, O2, O3, O5): a control word's bit fields as numbers, what each descriptor decodes to, that
encoding and decoding undo each other, and the bytes of the requests. -/

namespace Sys2Proof.Machine

/-! ### Encoding, then decoding -/

/-- With the reserved bits clear, decoding is the opcode's command (30_encoding R81). -/
theorem decodeCommand_of_clear {d : Descriptor} {i : Instr} (hclear : d.w0 &&& reservedMask = 0)
    (hi : commandOf d = some i) : decodeCommand d = .ok i := by
  simp [decodeCommand, hi, hclear]

/-- Only a control word is encoded, so no reserved bit is set (30_encoding R82). -/
theorem reserved_clear_of_encode {i : Instr} {d : Descriptor} (hd : encode i = .descriptor d) :
    d.w0 &&& reservedMask = 0 := by
  cases i
  case dgWrite => cases hd
  case dgRead => cases hd
  all_goals
    obtain rfl := Code.descriptor.inj hd
    exact controlWord_reserved _ _ _ _ _

/-- The opcode of an encoded command selects the command, and each field gives back the operand put into it: the handle and the
shift because they fit. -/
theorem commandOf_encode {i : Instr} {d : Descriptor} (hwf : i.wf = true) (hd : encode i = .descriptor d) :
    commandOf d = some i := by
  cases i
  case dgWrite => cases hd
  case dgRead => cases hd
  all_goals
    obtain rfl := Code.descriptor.inj hd
    simp only [Instr.wf, Bool.and_eq_true, decide_eq_true_eq] at hwf
    simp [commandOf, chField_controlWord, shiftField_controlWord, hwf]

theorem decodeCommand_of_encode {i : Instr} {d : Descriptor} (hwf : i.wf = true) (hd : encode i = .descriptor d) :
    decodeCommand d = .ok i :=
  decodeCommand_of_clear (reserved_clear_of_encode hd) (commandOf_encode hwf hd)

/-- Bit 39 of an encoded datagram tells its kind, and the other bits are its operands (30_encoding R71). -/
theorem decodeFrame_of_encode {i : Instr} {f : Frame} (hf : encode i = .frame f) : decodeFrame f = i := by
  cases i
  case dgWrite a v =>
    obtain rfl := Code.frame.inj hf
    simp [decodeFrame]
  case dgRead a payload =>
    obtain rfl := Code.frame.inj hf
    simp [decodeFrame]
  all_goals cases hf

/-- Settles O1: a command is encoded as a descriptor, a datagram as a frame, and each is decoded from its own fields. -/
theorem decodeOfEncode : Obligations.DecodeOfEncode := by
  intro i hwf
  cases hcode : encode i with
  | descriptor d => exact decodeCommand_of_encode hwf hcode
  | frame f => exact congrArg Except.ok (decodeFrame_of_encode hcode)

/-- Settles O2: a frame is the write or the read request that its own fields make. -/
theorem encodeOfDecodedFrame : Obligations.EncodeOfDecodedFrame := by
  intro f
  have hframe := writeFrame_or_readFrame f
  unfold decodeFrame
  split at hframe
  · next hwrite => rw [if_pos hwrite]; exact congrArg Code.frame hframe.symm
  · next hread => rw [if_neg hread]; exact congrArg Code.frame hframe.symm

/-! ### Every descriptor -/

theorem toNat_opField (w : Word) : (opField w).toNat = w.toNat % 16 := by simp [opField]

theorem chField_eq (w : Word) : chField w = w.toNat / 2 ^ 8 % 256 := by simp [chField, Nat.shiftRight_eq_div_pow]

theorem addrField_eq (w : Word) : addrField w = BitVec.ofNat 7 (w.toNat / 2 ^ 16) := by
  apply BitVec.eq_of_toNat_eq
  simp [addrField, Nat.shiftRight_eq_div_pow]

theorem shiftField_eq (w : Word) : shiftField w = w.toNat / 2 ^ 24 % 32 := by
  simp [shiftField, Nat.shiftRight_eq_div_pow]

theorem fwdField_eq (w : Word) : fwdField w = decide (w.toNat / 2 ^ 29 % 2 = 1) := Nat.testBit_eq_decide_div_mod_eq

/-- Opcode 0 and those above C select no command (30_encoding R80). -/
theorem commandOf_eq_none_iff (d : Descriptor) : commandOf d = none ↔ d.w0.toNat % 16 = 0 ∨ 0xC < d.w0.toNat % 16 := by
  unfold commandOf
  rw [toNat_opField]
  have hlt : d.w0.toNat % 16 < 16 := Nat.mod_lt _ (by decide)
  generalize d.w0.toNat % 16 = op at hlt ⊢
  interval_cases op <;> simp

theorem decodeCommand_of_reservedOpcode {d : Descriptor} (hop : d.w0.toNat % 16 = 0 ∨ 0xC < d.w0.toNat % 16) :
    decodeCommand d = .error .reservedOpcode := by
  simp [decodeCommand, (commandOf_eq_none_iff d).2 hop]

theorem decodeCommand_of_reservedBits {d : Descriptor} (hop : 1 ≤ d.w0.toNat % 16 ∧ d.w0.toNat % 16 ≤ 0xC)
    (hset : ¬ d.w0 &&& reservedMask = 0) : decodeCommand d = .error .reservedBits := by
  cases hi : commandOf d with
  | none => have := (commandOf_eq_none_iff d).1 hi; omega
  | some i => simp only [decodeCommand, hi, if_neg hset]

/-- Settles O3: the two refusals, and one command for each assigned opcode. -/
theorem descriptorDecoding : Obligations.DescriptorDecoding := by
  intro d w op h a s fwd clear
  have hh : chField d.w0 = h := chField_eq _
  have ha : addrField d.w0 = a := addrField_eq _
  have hs : shiftField d.w0 = s := shiftField_eq _
  have hfwd : fwdField d.w0 = decide fwd := fwdField_eq _
  refine ⟨fun hop => decodeCommand_of_reservedOpcode (by omega), decodeCommand_of_reservedBits, ?_⟩
  and_intros
  all_goals
    intro hclear hop
    have hopcode : (opField d.w0).toNat = _ := (toNat_opField _).trans hop
    exact decodeCommand_of_clear hclear (by simp only [commandOf, hopcode, hh, ha, hs, hfwd])

/-! ### Request bytes -/

/-- Byte 0 is the first eight bits of a frame. -/
theorem frameByte_append_zero (b : Byte) (v : Word) : frameByte (b ++ v) 0 = b := BitVec.extractLsb'_append_eq_left

/-- The bytes after byte 0 lie in the payload. -/
theorem frameByte_append_of_pos (b : Byte) (v : Word) {j : Nat} (hj : 0 < j) :
    frameByte (b ++ v) j = v.extractLsb' (32 - 8 * j) 8 :=
  BitVec.extractLsb'_append_eq_of_add_le (by omega)

/-- With `W` set, byte 0 is the address with its high bit set (30_encoding R72). -/
theorem writeBit_append (a : Addr) : (1#1 ++ a : Byte) = 0x80 ||| a.zeroExtend 8 := by
  apply BitVec.eq_of_getLsbD_eq
  intro i hi
  rw [BitVec.getLsbD_append]
  interval_cases i <;> simp

/-- With `W` clear, byte 0 is the address with its high bit clear (30_encoding R73). -/
theorem readBit_append (a : Addr) : (0#1 ++ a : Byte) = a.zeroExtend 8 &&& 0x7F := by
  apply BitVec.eq_of_getLsbD_eq
  intro i hi
  rw [BitVec.getLsbD_append]
  interval_cases i <;> simp

/-- Settles O5: byte 0 is `W` and the address, and the payload's bytes follow. -/
theorem requestBytes : Obligations.RequestBytes := by
  intro a v
  have hwrite (j : Nat) (hj : 0 < j) : frameByte (writeFrame a v) j = v.extractLsb' (32 - 8 * j) 8 :=
    frameByte_append_of_pos (1#1 ++ a) v hj
  have hread (j : Nat) (hj : 0 < j) : frameByte (readFrame a) j = 0 :=
    (frameByte_append_of_pos (0#1 ++ a) 0 hj).trans BitVec.extractLsb'_zero
  exact ⟨⟨rfl, (frameByte_append_zero (1#1 ++ a) v).trans (writeBit_append a), hwrite 1 (by decide), hwrite 2 (by decide),
      hwrite 3 (by decide), hwrite 4 (by decide)⟩,
    rfl, (frameByte_append_zero (0#1 ++ a) 0).trans (readBit_append a), hread 1 (by decide), hread 2 (by decide),
    hread 3 (by decide), hread 4 (by decide)⟩

end Sys2Proof.Machine
end

section
/-! SUPPORT. What a step makes of a latched descriptor (O13) and of a table word put in place (O15). -/

namespace Sys2Proof.Machine

theorem step_of_rejected {s : State} {r : Reject} (hsel : s.bus.select = false) (hphase : s.phase = .busy) (hk : s.k = 0)
    (hdec : decodeCommand s.cmd = .error r) : step s = .next (raiseIllegal r s) := by
  simp [step, hsel, hphase, hk, hdec]

/-- Settles O13: the two refusals of the decoder are raised as `ILLEGAL_COMMAND` with their details. -/
theorem illegalDescriptorFails : Obligations.IllegalDescriptorFails := by
  intro s _ hsel hphase hk
  refine ⟨fun hop => step_of_rejected hsel hphase hk (decodeCommand_of_reservedOpcode ?_),
    fun hop hset => step_of_rejected hsel hphase hk (decodeCommand_of_reservedBits hop hset)⟩
  simp only [List.mem_cons, List.not_mem_nil, or_false] at hop
  omega

/-- The words of a descriptor, first word lowest, give the descriptor back. -/
theorem descriptorOfNat_words (d : Descriptor) :
    descriptorOfNat (d.w0.toNat + 2 ^ 32 * d.w1.toNat + 2 ^ 64 * d.w2.toNat) = d := by
  obtain ⟨w0, w1, w2⟩ := d
  simp only [descriptorOfNat, Descriptor.mk.injEq]
  refine ⟨?_, ?_, ?_⟩ <;> apply BitVec.eq_of_toNat_eq <;> simp only [BitVec.toNat_ofNat] <;> omega

theorem codeOfTableWord_words (d : Descriptor) :
    codeOfTableWord 96 (d.w0.toNat + 2 ^ 32 * d.w1.toNat + 2 ^ 64 * d.w2.toNat) = .descriptor d := by
  have hfits : d.w0.toNat + 2 ^ 32 * d.w1.toNat + 2 ^ 64 * d.w2.toNat < 2 ^ 96 := by omega
  rw [codeOfTableWord, if_neg (by decide), Nat.mod_eq_of_lt hfits, descriptorOfNat_words]

theorem withFetchWord_descriptor (s : State) (d : Descriptor) :
    s.withFetchWord 96 (d.w0.toNat + 2 ^ 32 * d.w1.toNat + 2 ^ 64 * d.w2.toNat) = s.withDescriptor d := by
  simp only [State.withFetchWord, codeOfTableWord_words]

theorem withFetchWord_frame (s : State) (f : Frame) : s.withFetchWord 40 f.toNat = s.withFrame f := by
  simp [State.withFetchWord, codeOfTableWord]

/-- Settles O15: a placed descriptor is latched by a busy sequencer and a placed frame is on the selected bus, and each decodes
to the instruction it encodes. -/
theorem fetchedWordRuns : Obligations.FetchedWordRuns := by
  intro s i _ hwf
  refine ⟨fun d hd => ?_, fun f hf => ?_⟩
  · rw [withFetchWord_descriptor]
    exact step_of_decoded rfl rfl rfl (decodeCommand_of_encode hwf hd)
  · rw [withFetchWord_frame]
    exact congrArg (exec · (s.withFrame f)) (decodeFrame_of_encode hf)

end Sys2Proof.Machine
end

section
/-! SUPPORT. The written commands: the pseudo-commands as rotations (O7) and lines assembled (O8). -/

namespace Sys2Proof.Machine

theorem speedOf_eq_abs (v : Word) : speedOf v = v.abs := by
  simp [speedOf, BitVec.abs_eq, BitVec.msb_eq_toInt]

theorem modeOfVelocity_eq (v : Word) :
    modeOfVelocity v = if v.msb then .velocityNegative else .velocityPositive := by
  simp [modeOfVelocity, BitVec.msb_eq_toInt]

/-- Negation turns the sign, but for 0 and `-2^31`, which are their own negatives. -/
theorem msb_zero_sub {v : Word} (hzero : v ≠ 0) (hmin : v ≠ 0x80000000) : (0 - v).msb = !v.msb :=
  (congrArg BitVec.msb (BitVec.zero_sub v)).trans (BitVec.msb_neg_of_ne_intMin_of_ne_zero hmin hzero)

theorem speedOf_zero_sub (v : Word) : speedOf (0 - v) = speedOf v := by
  by_cases hzero : v = 0
  · rw [hzero]; rfl
  by_cases hmin : v = 0x80000000
  · rw [hmin]; rfl
  rw [speedOf_eq_abs, speedOf_eq_abs, BitVec.abs_eq, BitVec.abs_eq, msb_zero_sub hzero hmin]
  cases v.msb <;> simp

theorem modeOfVelocity_zero_sub_ne {v : Word} (hzero : v ≠ 0) (hmin : v ≠ 0x80000000) :
    modeOfVelocity (0 - v) ≠ modeOfVelocity v := by
  rw [modeOfVelocity_eq, modeOfVelocity_eq, msb_zero_sub hzero hmin]
  cases v.msb <;> decide

/-- Settles O7: negation keeps the magnitude and, but for the two words that are their own negatives, turns the sign. -/
theorem leftReversesRight : Obligations.LeftReversesRight := by
  intro h v
  refine ⟨rfl, rfl, rfl, speedOf_zero_sub v, modeOfVelocity_zero_sub_ne, fun hzero => ?_, fun hmin => ?_⟩
  · rw [hzero]; decide
  · rw [hmin]; decide

/-- Settles O8: line by line, by running the assembler. -/
theorem assemblerLines : Obligations.AssemblerLines := ⟨rfl, rfl, rfl, rfl, rfl, rfl, rfl, rfl, rfl⟩

end Sys2Proof.Machine
end

section
/-! SUPPORT. The register table, the permission check and the pre-check that rests on it (O34, O33), and the moves of a step
(O12). -/

namespace Sys2Proof.Machine

/-! ### The register table -/

/-- A listed address has its entry: no address is listed twice (10_state R31). -/
theorem regEntry_of_mem {p : Params} {a : Addr} {e : RegEntry} (hp : p.wf = true) (he : (a, e) ∈ p.regTable) :
    regEntry p a = e := by
  have hnodup : (p.regTable.map (·.1)).Nodup := by
    simp only [Params.wf, Bool.and_eq_true, decide_eq_true_eq] at hp
    tauto
  have hlookup : p.regTable.lookup a = some e := by
    obtain ⟨before, after, htable⟩ := List.mem_iff_append.mp he
    refine List.lookup_eq_some_iff.mpr ⟨before, after, htable, fun e' he' => bne_iff_ne.mpr fun heq => ?_⟩
    rw [htable, List.map_append, List.nodup_append] at hnodup
    exact hnodup.2.2 _ (List.mem_map_of_mem he') a (by simp) heq.symm
  simp [regEntry, hlookup]

/-- An address that is not listed has class `None` and no reset value (10_state R31, 20_memory R52). -/
theorem regEntry_of_unlisted {p : Params} {a : Addr} (ha : ∀ e ∈ p.regTable, e.1 ≠ a) :
    regEntry p a = ⟨.none, Option.none⟩ := by
  have hlookup : p.regTable.lookup a = none :=
    List.lookup_eq_none_iff.mpr fun e he => bne_iff_ne.mpr (ha e he).symm
  simp [regEntry, hlookup]

theorem checkAccess_read_iff (p : Params) (a : Addr) : checkAccess p a .read = true ↔
    accessClass p a ∈ [AccessClass.readOnly, .readWrite, .readWriteSplit, .readOnlyClearOnRead] := by
  unfold checkAccess
  cases accessClass p a <;> decide

theorem checkAccess_write_iff (p : Params) (a : Addr) : checkAccess p a .write = true ↔
    accessClass p a ∈ [AccessClass.writeOnly, .readWrite, .readWriteSplit, .writeOnlyHardwarePreset] := by
  unfold checkAccess
  cases accessClass p a <;> decide

/-- Settles O34: the matrix class by class, and class and reset value are those of the entry looked up. -/
theorem permissionMatrix : Obligations.PermissionMatrix := by
  refine fun p a => ⟨checkAccess_read_iff p a, checkAccess_write_iff p a, fun e hp he => ?_, fun ha => ?_⟩
  · have hentry := regEntry_of_mem hp he
    exact ⟨congrArg RegEntry.cls hentry, congrArg RegEntry.reset hentry⟩
  · have hentry := regEntry_of_unlisted ha
    exact ⟨congrArg RegEntry.cls hentry, congrArg RegEntry.reset hentry⟩

/-! ### The pre-check -/

section Precheck

variable {i : Instr} {s : State}

theorem channelFailure_of_ready (h : ChannelReady i s) : channelFailure i s = none := by
  unfold channelFailure
  split
  · rfl
  · next handle hi => exact if_neg (Nat.not_le_of_lt (h handle hi))

theorem rangeFailure_of_ready (h : RangeReady i s) : rangeFailure i s = none := by
  unfold rangeFailure
  split
  · rfl
  · next p hi =>
    split
    · rfl
    · rfl
    · next hfail =>
      obtain ⟨hlow, hhigh⟩ := h hfail p hi
      rw [if_neg (Int.not_lt.mpr hlow), if_neg (Int.not_lt.mpr hhigh)]

/-- With the check made, the first forbidden access decides the failure (40_framer R116, 60_exceptions R216). -/
theorem accessFailure_of_forbidden {before after : List (Addr × AccessDir)} {a : Addr} {dir : AccessDir}
    (hchecked : s.params.checkAccess = true) (hlist : accessList s.params i = before ++ (a, dir) :: after)
    (hbefore : ∀ e ∈ before, checkAccess s.params e.1 e.2 = true) (hforbidden : checkAccess s.params a dir = false) :
    accessFailure i s = some (.accessViolation, accessDetail dir) := by
  have hfirst : firstForbidden s.params (accessList s.params i) = some (a, dir) :=
    List.find?_eq_some_iff_append.mpr
      ⟨by simp [hforbidden], before, after, hlist, fun e he => by simp [hbefore e he]⟩
  simp [accessFailure, hchecked, hfirst]

theorem exec_of_accessFailure {c : StatusCode} {d : BitVec 4} (hchannel : ChannelReady i s) (hrange : RangeReady i s)
    (haccess : accessFailure i s = some (c, d)) : exec i s = .next (failedState c d s) := by
  simp [exec_eq_guarded, guarded, precheck, channelFailure_of_ready hchannel, rangeFailure_of_ready hrange, haccess,
    raise_eq_failedState]

end Precheck

/-- Settles O33: the access lists row by row; and the first two checks pass, so the third decides. -/
theorem forbiddenAccessFails : Obligations.ForbiddenAccessFails := by
  refine ⟨fun p h sh a v w fwd => ⟨rfl, rfl, rfl, rfl, rfl, rfl, rfl, rfl, rfl, rfl, rfl, rfl⟩, ?_⟩
  intro i s before after a dir _ hchannel hrange hchecked hlist hbefore hforbidden
  have hexec := exec_of_accessFailure hchannel hrange
    (accessFailure_of_forbidden hchecked hlist hbefore hforbidden)
  constructor
  · rintro rfl; exact hexec
  · rintro rfl; exact hexec

/-! ### The moves of a step -/

/-- Settles O12: by the tests a step begins with. -/
theorem stepRunsDecodedInstruction : Obligations.StepRunsDecodedInstruction := by
  intro s _
  refine ⟨fun hselect => if_pos hselect, fun hselect hphase hk i => step_of_decoded hselect hphase hk, ?_⟩
  intro hselect hphase
  simp [step, hselect, hphase]

end Sys2Proof.Machine
end

section
/-! SUPPORT. The register commands: all exchanges or none (O36), what REG_WRITE and REG_READ send, return and leave, and their
repetition (O18, O19), the sample a read returns (O56), and the round trip at the reference device (O57). -/

namespace Sys2Proof.Machine

/-- Settles O36: a failure sends nothing, `INIT` has no access to make, and every other body makes those of its list. -/
theorem allExchangesOrNone : Obligations.AllExchangesOrNone := by
  intro i s t hi hexec _
  rcases exec_command_cases s hi with ⟨c, d, -, hfail, he⟩ | ⟨cs, rfl, he⟩ | ⟨h, x, u, hh, -, he, hu⟩
  · cases he.symm.trans hexec
    exact .inr ⟨hfail, rfl, rfl⟩
  · cases he.symm.trans hexec
    exact .inl ⟨rfl, rfl, [], (List.append_nil _).symm, rfl, rfl, nofun⟩
  · cases he.symm.trans hexec
    have hlength := exchangeCount_eq_length s.params hi
    obtain ⟨evs, hhistory, hdatagrams, hchannel⟩ := hu.events
    refine .inl ⟨rfl, hlength ▸ hu.count, evs, hhistory, ?_, hdatagrams, fun e he => by rw [hchannel e he, hh]⟩
    rw [hlength, ← hdatagrams, List.length_map]

/-! ### Ready again -/

section Again

variable {i j : Instr} {h : Nat} {s t : State}

/-- A command without a scaling input is ready on an allocated channel if its accesses are permitted. -/
theorem ready_of_permitted (hi : handleOf i = some h) (hscaling : scalingInput i = none) (hh : h < s.allocCount.toNat)
    (hpermitted : ∀ e ∈ accessList s.params i, checkAccess s.params e.1 e.2 = true) : Ready i s where
  channel h' hi' := by cases hi.symm.trans hi'; exact hh
  range _ p hp := by cases hscaling.symm.trans hp
  access _ := hpermitted

/-- A command that completes `OK` leaves every command ready that was so before it. -/
theorem Finished.ready (ht : Finished j h s t) (hready : Ready i s) : Ready i t where
  channel := by simpa [ChannelReady, ht.alloc] using hready.channel
  range := by simpa [RangeReady, ht.setting.params] using hready.range
  access := by simpa [AccessReady, ht.setting.params] using hready.access

theorem Finished.good (ht : Finished j h s t) : t.Good := by simp [State.Good, ht.completed.status]

theorem Finished.unfaulted (ht : Finished j h s t) (hunfaulted : Unfaulted i s) : Unfaulted i t where
  good := ht.good
  permitted := by simpa [ht.setting.params] using hunfaulted.permitted

/-- Where only one register may have been written, and it holds the same word before and after, every register is as before. -/
theorem deviceReg_eq_of_held {cs : Word} {a : Addr} {w : Word}
    (hothers : ∀ cs' a', (cs' ≠ cs ∨ a' ≠ a) → deviceReg t cs' a' = deviceReg s cs' a')
    (hbefore : deviceReg s cs a = some w) (hafter : deviceReg t cs a = some w) (cs' : Word) (a' : Addr) :
    deviceReg t cs' a' = deviceReg s cs' a' := by
  by_cases hsame : cs' = cs ∧ a' = a
  · obtain ⟨rfl, rfl⟩ := hsame
    exact hafter.trans hbefore.symm
  · exact hothers cs' a' (by tauto)

end Again

/-! ### REG_WRITE -/

/-- Settles O18: the body is the one write; the write repeated leaves in the register what the first one left (20_memory R61). -/
theorem regWriteSendsValue : Obligations.RegWriteSendsValue := by
  intro s h a v hready hunfaulted
  obtain ⟨t, ht⟩ := completedFrom_of_body rfl rfl hready hunfaulted
  obtain ⟨u, hu⟩ := completedFrom_of_body rfl rfl (ht.finished.ready hready) (ht.finished.unfaulted hunfaulted)
  have hpermitted : checkAccess s.params a .write = true := hunfaulted.permitted _ (List.mem_singleton_self _)
  have hchans : t.chans = s.chans := ht.chans.trans (set_chanOf s h)
  have hchan : chanOf t h = chanOf s h := chanOf_congr hchans h
  have hfirst : deviceReg t (chanOf s h).cs a = some (writtenValue s (chanOf s h).cs a v) :=
    ht.register ▸ deviceReg_writeReg_written s h a v
  have hsecond : deviceReg u (chanOf s h).cs a = some (writtenValue s (chanOf s h).cs a v) := by
    rw [hu.register, ← hchan, deviceReg_writeReg_written,
      writtenValue_congr ht.finished.setting.params ht.finished.setting.oracle _ v hpermitted]
  have hothers : ∀ cs a', (cs ≠ (chanOf s h).cs ∨ a' ≠ a) → deviceReg u cs a' = deviceReg t cs a' := by
    simpa [hchan, accessList] using hu.finished.regs
  exact ⟨t, _, ht.exec, ht.finished, ht.history.trans (writeReg_history s h a v), ht.result, hchans,
    ht.rdata.trans (by simp), ht.tgt.trans (by simp),
    fun hsettles => hfirst.trans (congrArg some (writtenValue_of_settles s _ v hsettles)),
    u, _, hu.exec, hu.finished.good, hu.history.trans (writeReg_history t h a v),
    deviceReg_eq_of_held hothers hfirst hsecond⟩

/-! ### REG_READ -/

theorem sampledValue_of_reference {s : State} (cs : Word) (a : Addr) (ho : s.oracle = .reference) :
    sampledValue s cs a = (deviceReg s cs a).getD 0 := by simp [sampledValue, ho]

theorem sampledValue_of_free {s : State} (cs : Word) (a : Addr) (ho : s.oracle = .free) :
    sampledValue s cs a = Config.sample s.draws := by simp [sampledValue, ho]

/-- Settles O19: the body is the one read; at the reference device the register is left at the value read, so the read repeated
returns that value and leaves it (20_memory R61). -/
theorem regReadReturnsSecondResponse : Obligations.RegReadReturnsSecondResponse := by
  intro s h a hready hunfaulted
  obtain ⟨t, ht⟩ := completedFrom_of_body rfl rfl hready hunfaulted
  obtain ⟨rx1, rx2, hhistory, hvalue⟩ := readReg_events h a s
  obtain ⟨hcleared, hkept⟩ := deviceReg_readReg_same s h a
  have hchans : t.chans = s.chans := ht.chans.trans (set_chanOf s h)
  refine ⟨t, rx1, rx2, ht.exec, ht.finished, ht.history.trans hhistory, ht.result.trans hvalue, ht.rdata.trans hvalue, hchans,
    ht.tgt.trans (by simp), ht.register ▸ hcleared, fun ho hclass => ?_⟩
  have hfirst : deviceReg t (chanOf s h).cs a = some (framePayload rx2) := by rw [ht.register, hkept ho hclass, hvalue]
  obtain ⟨u, hu⟩ := completedFrom_of_body rfl rfl (ht.finished.ready hready) (ht.finished.unfaulted hunfaulted)
  have hchan : chanOf t h = chanOf s h := chanOf_congr hchans h
  have ho' : t.oracle = .reference := ht.finished.setting.oracle.trans ho
  have hagain : (readReg h a t).rdata = framePayload rx2 := by
    rw [readReg_rdata, sampledValue_of_reference _ _ ho', hchan, hfirst, Option.getD_some]
  have hsecond : deviceReg u (chanOf s h).cs a = some (framePayload rx2) := by
    rw [hu.register, ← hchan, (deviceReg_readReg_same t h a).2 ho' (by rwa [ht.finished.setting.params]), hagain]
  have hothers : ∀ cs a', (cs ≠ (chanOf s h).cs ∨ a' ≠ a) → deviceReg u cs a' = deviceReg t cs a' := by
    simpa [hchan, accessList] using hu.finished.regs
  exact ⟨hfirst, u, hu.exec, hu.finished.good, (hu.result.trans hagain).trans (ht.result.trans hvalue).symm,
    deviceReg_eq_of_held hothers hfirst hsecond⟩

/-- Settles O56: the value of the body's read is its first request's sample, as the device law gives it. -/
theorem readReturnsFirstSample : Obligations.ReadReturnsFirstSample := by
  intro s t h a hready hunfaulted hexec
  obtain ⟨t', ht⟩ := completedFrom_of_body rfl rfl hready hunfaulted
  cases ht.exec.symm.trans hexec
  have hresult : t.result = sampledValue s (chanOf s h).cs a := ht.result.trans (readReg_rdata s h a)
  exact ⟨fun ho => hresult.trans (sampledValue_of_reference _ a ho),
    fun ho => hresult.trans (sampledValue_of_free _ a ho)⟩

/-- Settles O57: the write leaves the value in the register, and the read samples it. -/
theorem referenceRoundTrip : Obligations.ReferenceRoundTrip := by
  intro s h a v hgood ho hh hclass
  have hwrite : ∀ e ∈ accessList s.params (.regWrite h a v), checkAccess s.params e.1 e.2 = true := by
    simp [accessList, checkAccess_write_iff, hclass]
  have hread : ∀ e ∈ accessList s.params (.regRead h a), checkAccess s.params e.1 e.2 = true := by
    simp [accessList, checkAccess_read_iff, hclass]
  obtain ⟨t, rx, hexec, ht, -, -, hchans, -, -, hheld, -⟩ :=
    regWriteSendsValue s h a v (ready_of_permitted rfl rfl hh hwrite) ⟨hgood, hwrite⟩
  have hready : Ready (.regRead h a) t := ht.ready (ready_of_permitted rfl rfl hh hread)
  have hunfaulted : Unfaulted (.regRead h a) t := ht.unfaulted ⟨hgood, hread⟩
  obtain ⟨u, rx1, rx2, hexec', hu, -⟩ := regReadReturnsSecondResponse t h a hready hunfaulted
  have hresult : u.result = (deviceReg t (chanOf t h).cs a).getD 0 :=
    (readReturnsFirstSample t u h a hready hunfaulted hexec').1 (ht.setting.oracle.trans ho)
  refine ⟨t, u, hexec, hexec', ?_, by rw [hu.completed.status], hu.good⟩
  rw [hresult, chanOf_congr hchans, hheld (.inl ho), Option.getD_some]

end Sys2Proof.Machine
end

section
/-! SUPPORT. The datagrams on the bus: what one leaves of the block and of the devices, the register a write sets (O29), and the
latch a read fills (O30). -/

namespace Sys2Proof.Machine

/-! ### The exchange of a frame -/

/-- The datagram a frame decodes to is the exchange of that frame (30_encoding R71, 40_framer R101). -/
theorem exec_decodeFrame (f : Frame) (s : State) : exec (decodeFrame f) s = .next (answer f s) := by
  have hdatagram : exec (decodeFrame f) s = .next (answer (if frameIsWrite f then writeFrame (frameAddr f) (framePayload f)
      else readFrameWith (frameAddr f) (framePayload f)) s) := by
    unfold decodeFrame
    split <;> rfl
  rw [hdatagram, ← writeFrame_or_readFrame f]

theorem datagramDone_answer (tx : Frame) (s : State) : DatagramDone tx s (answer tx s) where
  setting := by constructor <;> simp
  event := ⟨answerFrame s s.bus.cs, by simp⟩
  count := answer_k s tx
  status := answer_status tx s
  statusLog := answer_statusLog tx s
  phase := answer_phase tx s
  result := answer_result tx s
  alloc := answer_allocCount tx s
  rdata := answer_rdata tx s
  tgt := answer_tgt tx s
  chans := answer_chans tx s

theorem devicesKept_answer (tx : Frame) (s : State) : DevicesKept tx s (answer tx s) where
  regs cs a hne := deviceReg_answer_ne s tx cs a hne
  pends cs hne := devicePend_answer_ne s tx cs hne

/-! ### DG.WRITE -/

theorem deviceReg_answer_writeFrame (a : Addr) (v : Word) (s : State) :
    deviceReg (answer (writeFrame a v) s) s.bus.cs a = some (writtenValue s s.bus.cs a v) := by
  simp [answer, deviceAct]

/-- Settles O29: by the class, the addressed register holds the payload or the free value of register and payload; a repetition
leaves the same there, and touches no other register. -/
theorem datagramWriteSetsRegister : Obligations.DatagramWriteSetsRegister := by
  intro s a v _
  refine ⟨answer (writeFrame a v) s, rfl, datagramDone_answer _ s, fun hclass => ⟨devicesKept_answer _ s, ?_⟩⟩
  have hpermitted : checkAccess s.params a .write = true := by
    rw [checkAccess_write_iff]; simp only [List.mem_cons] at hclass ⊢; tauto
  have hheld := deviceReg_answer_writeFrame a v s
  refine ⟨fun hsplit => ?_, fun _ ho => ?_, fun hsplit ho => ?_, answer (writeFrame a v) (answer (writeFrame a v) s), _, rfl,
    by rw [answer_history, answer_bus], ?_⟩
  · have hsettles : WriteSettles s a := .inr (by simp only [List.mem_cons] at hclass ⊢; tauto)
    rw [hheld, writtenValue_of_settles s _ v hsettles]
  · rw [hheld, writtenValue_of_settles s _ v (.inl ho)]
  · rw [hheld, writtenValue_of_split s _ v ho hsplit]
  · have hagain := deviceReg_answer_writeFrame a v (answer (writeFrame a v) s)
    rw [writtenValue_congr (answer_params _ s) (answer_oracle _ s) _ v hpermitted, answer_bus] at hagain
    exact deviceReg_eq_of_held
      (fun cs a' hne => deviceReg_answer_ne _ _ cs a' (by simpa using hne)) hheld hagain

/-! ### DG.READ -/

theorem afterSample_eq (p : Params) (a : Addr) (v : Word) :
    afterSample p a v = if accessClass p a = .readOnlyClearOnRead then 0 else v := by
  unfold afterSample
  cases accessClass p a <;> rfl

/-- At the device a read request is the read of its register, whatever its payload (notes/assumptions/14.md). -/
theorem deviceAct_readFrameWith (cs : Word) (a : Addr) (payload : Word) (s : State) :
    deviceAct cs (readFrameWith a payload) s = deviceRead cs a s := by
  simp [deviceAct]

theorem devicePend_answer_readFrameWith (a : Addr) (payload : Word) (s : State) :
    devicePend (answer (readFrameWith a payload) s) s.bus.cs = some (sampledValue s s.bus.cs a) := by
  simp [answer, deviceAct_readFrameWith]

theorem deviceReg_answer_readFrameWith (a : Addr) (payload : Word) (s : State) :
    deviceReg (answer (readFrameWith a payload) s) s.bus.cs a =
      some (if accessClass s.params a = .readOnlyClearOnRead then 0 else sampledValue s s.bus.cs a) := by
  simp [answer, deviceAct_readFrameWith, afterSample_eq]

/-- A latched sample is what the device answers the next frame with (40_framer R104). -/
theorem framePayload_answerFrame {s : State} {cs v : Word} (hlatch : devicePend s cs = some v) :
    framePayload (answerFrame s cs) = v := by
  simp [answerFrame, answerPayload, hlatch]

/-- Settles O30: the sample fills the latch, from which the next frame is answered. -/
theorem datagramReadSamplesRegister : Obligations.DatagramReadSamplesRegister := by
  intro s a payload _
  have hlatch := devicePend_answer_readFrameWith a payload s
  refine ⟨answer (readFrameWith a payload) s, rfl, datagramDone_answer _ s, fun _ => ⟨devicesKept_answer _ s,
    sampledValue s s.bus.cs a, hlatch, sampledValue_of_reference _ a, deviceReg_answer_readFrameWith a payload s,
    fun f => ⟨_, _, exec_decodeFrame f _, by rw [answer_history, answer_bus], ?_⟩, fun payload' => ⟨_, rfl, ?_, ?_⟩⟩⟩
  · exact framePayload_answerFrame (by simpa using hlatch)
  · simp [answer, deviceAct_readFrameWith]
  · simp [answer, deviceAct_readFrameWith]

end Sys2Proof.Machine
end

section
/-! SUPPORT. Bit fields: what a field insert leaves of a word and what an extract of it gives (O50, O51), FIELD_READ and
FIELD_WRITE (O20, O21), and their round trip at the reference device (O58). -/

namespace Sys2Proof.Machine

/-! ### Insert and extract -/

section Fields

variable (old mask value : Word) (s : Nat)

theorem fieldSet_and_outside : fieldSet old mask s value &&& ~~~(mask <<< s) = old &&& ~~~(mask <<< s) := by
  have hinserted : ((value &&& mask) <<< s) &&& ~~~(mask <<< s) = 0#32 := by
    rw [BitVec.shiftLeft_and_distrib, BitVec.and_assoc, BitVec.and_not_self]
    exact BitVec.and_zero
  rw [fieldSet, BitVec.and_or_distrib_right, hinserted, BitVec.or_zero, BitVec.and_assoc, BitVec.and_self]

theorem getLsbD_fieldSet_add {i : Nat} (hi : s + i < 32) :
    (fieldSet old mask s value).getLsbD (s + i) = if mask.getLsbD i then value.getLsbD i else old.getLsbD (s + i) := by
  cases hm : mask.getLsbD i <;> simp [fieldSet, -BitVec.getLsbD_eq_getElem, hi, hm]

/-- Of the masked value there reads back what the shift leaves in the word. -/
theorem fieldGet_fieldSet :
    fieldGet (fieldSet old mask s value) mask s = value &&& mask &&& BitVec.ofNat 32 (2 ^ (32 - s) - 1) := by
  refine BitVec.eq_of_getLsbD_eq fun i hi => ?_
  simp only [fieldGet, BitVec.getLsbD_and, BitVec.getLsbD_ushiftRight, BitVec.getLsbD_ofNat, hi, decide_true, Bool.true_and,
    Nat.testBit_two_pow_sub_one]
  by_cases hfits : s + i < 32
  · rw [getLsbD_fieldSet_add old mask value s hfits]
    cases hm : mask.getLsbD i <;> simp [show i < 32 - s by omega]
  · rw [BitVec.getLsbD_of_ge _ _ (by omega)]
    simp [show ¬ i < 32 - s by omega]

theorem fieldGet_fieldSet_of_fits (hfits : mask.toNat < 2 ^ (32 - s)) :
    fieldGet (fieldSet old mask s value) mask s = value &&& mask := by
  have hkept : mask &&& BitVec.ofNat 32 (2 ^ (32 - s) - 1) = mask := by
    refine BitVec.eq_of_toNat_eq ?_
    have hbound : 2 ^ (32 - s) ≤ 2 ^ 32 := Nat.pow_le_pow_right (by decide) (by omega)
    rw [BitVec.toNat_and, BitVec.toNat_ofNat, Nat.mod_eq_of_lt (by omega), Nat.and_two_pow_sub_one_of_lt_two_pow hfits]
  rw [fieldGet_fieldSet, BitVec.and_assoc, hkept]

end Fields

/-- Settles O50: by bits, the inserted ones lie under the shifted mask, and a mask that fits loses none of them. -/
theorem fieldIsolation : Obligations.FieldIsolation := fun old mask value s _ =>
  ⟨fieldSet_and_outside old mask value s, fieldGet_fieldSet_of_fits old mask value s⟩

/-- Settles O51: the laws of insert and extract hold whatever the mask; the example is computed. -/
theorem maskOverflow : Obligations.MaskOverflow :=
  ⟨fun old mask value s _ _ => ⟨fieldSet_and_outside old mask value s, fieldGet_fieldSet old mask value s⟩,
    by decide, by decide⟩

/-! ### The commands -/

/-- Settles O20: the body is the one read, and the field is taken from its value. -/
theorem fieldReadReturnsField : Obligations.FieldReadReturnsField := by
  intro s h a sh mask hready hunfaulted
  obtain ⟨t, ht⟩ := completedFrom_of_body rfl rfl hready hunfaulted
  obtain ⟨rx1, rx2, hhistory, hvalue⟩ := readReg_events h a s
  have hregister := deviceReg_readReg_same s h a
  rw [hvalue, ← ht.register] at hregister
  exact ⟨t, rx1, rx2, ht.exec, ht.finished, ht.history.trans hhistory, ht.result.trans (by rw [hvalue, fieldGet]),
    ht.rdata.trans hvalue, ht.chans.trans (set_chanOf s h), ht.tgt.trans (by simp), hregister⟩

/-- Settles O21: the body is the read and the write of the merged word; the write comes last, so the register holds it. -/
theorem fieldWriteMergesField : Obligations.FieldWriteMergesField := by
  intro s h a sh mask v hready hunfaulted
  obtain ⟨t, ht⟩ := completedFrom_of_body rfl rfl hready hunfaulted
  obtain ⟨rx1, rx2, hreads, hvalue⟩ := readReg_events h a s
  have hheld := (accessed_readReg h a s).deviceReg_writeReg (a := a) (fieldSet (framePayload rx2) mask sh v)
  rw [hvalue] at ht
  have hhistory := ht.history.trans (writeReg_history ..)
  rw [hreads, List.append_assoc] at hhistory
  exact ⟨t, rx1, rx2, _, ht.exec, ht.finished, hhistory, ht.result, ht.rdata.trans (by simp [hvalue]),
    ht.chans.trans (set_chanOf s h), ht.tgt.trans (by simp), ht.register ▸ hheld⟩

/-- Settles O58: the write merges into the word the register holds, and the read samples the merged word. -/
theorem referenceFieldRoundTrip : Obligations.ReferenceFieldRoundTrip := by
  intro s h a sh mask v hgood ho hh hclass _ hfits
  have hwrite : ∀ e ∈ accessList s.params (.fieldWrite h a sh mask v), checkAccess s.params e.1 e.2 = true := by
    simp [accessList, checkAccess_read_iff, checkAccess_write_iff, hclass]
  have hread : ∀ e ∈ accessList s.params (.fieldRead h a sh mask), checkAccess s.params e.1 e.2 = true := by
    simp [accessList, checkAccess_read_iff, hclass]
  obtain ⟨t, ht⟩ := completedFrom_of_body rfl rfl
    (ready_of_permitted (i := .fieldWrite h a sh mask v) rfl rfl hh hwrite) ⟨hgood, hwrite⟩
  obtain ⟨u, hu⟩ := completedFrom_of_body rfl rfl
    (ht.finished.ready (ready_of_permitted (i := .fieldRead h a sh mask) rfl rfl hh hread))
    (ht.finished.unfaulted ⟨hgood, hread⟩)
  have hheld : deviceReg t (chanOf s h).cs a = some (fieldSet ((deviceReg s (chanOf s h).cs a).getD 0) mask sh v) := by
    rw [ht.register, readReg_rdata, sampledValue_of_reference _ _ ho]
    exact (accessed_readReg h a s).deviceReg_writeReg _ (.inl ho)
  have hsampled : (readReg h a t).rdata = fieldSet ((deviceReg s (chanOf s h).cs a).getD 0) mask sh v := by
    rw [readReg_rdata, sampledValue_of_reference _ _ (ht.finished.setting.oracle.trans ho),
      chanOf_congr (ht.chans.trans (set_chanOf s h)), hheld, Option.getD_some]
  refine ⟨t, u, _, ht.exec, hheld, fieldSet_and_outside .., hu.exec, ?_⟩
  rw [hu.result, hsampled, fieldGet_fieldSet_of_fits _ _ _ _ hfits]

end Sys2Proof.Machine
end

section
/-! SUPPORT. The speed of SET_VELOCITY as a magnitude, read without and with sign (O55). -/

namespace Sys2Proof.Machine

/-- Read without sign the absolute value is exact at every width, for the least word too. -/
theorem toNat_abs_eq_natAbs_toInt {w : Nat} (x : BitVec w) : x.abs.toNat = x.toInt.natAbs := by
  have hlt := x.isLt
  rw [BitVec.toNat_abs, BitVec.toInt_eq_msb_cond]
  cases x.msb
  · simp
  · simp only [if_true]
    omega

theorem speedOf_toNat (v : Word) : (speedOf v).toNat = v.toInt.natAbs := by
  rw [speedOf_eq_abs, toNat_abs_eq_natAbs_toInt]

/-- Read with sign only the magnitude of `-2^31` does not fit. -/
theorem speedOf_toInt {v : Word} (hmin : v ≠ 0x80000000) : (speedOf v).toInt = v.toInt.natAbs := by
  rw [speedOf_eq_abs, BitVec.toInt_abs_eq_natAbs_of_ne_intMin hmin]

/-- Settles O55: the speed is the absolute value, exact without sign, and with sign but for `-2^31`, which is computed. -/
theorem speedIsMagnitude : Obligations.SpeedIsMagnitude := fun v =>
  ⟨speedOf_toNat v, fun hmin => speedOf_toInt hmin ▸ Int.natCast_nonneg _, by decide⟩

end Sys2Proof.Machine
end

section
/-! SUPPORT. Scaling as arithmetic: rounding to hundredths (O52), scaling over 0..100 and under each policy (O53), and the
quarter (O54). -/

namespace Sys2Proof.Machine

/-! ### Rounding -/

theorem roundHundredth_of_nonneg {n : Int} (hn : 0 ≤ n) : roundHundredth n = (n + 50) / 100 := by
  obtain ⟨m, rfl⟩ := Int.eq_ofNat_of_zero_le hn
  rcases m.eq_zero_or_pos with rfl | hm
  · rfl
  · rw [roundHundredth, Int.sign_eq_one_of_pos (by omega)]
    omega

theorem roundHundredth_neg (n : Int) : roundHundredth (-n) = -roundHundredth n := by
  simp [roundHundredth]

/-- At and above zero a tie goes up (43_scaling R180). -/
theorem roundHundredth_bounds_of_nonneg {n : Int} (hn : 0 ≤ n) :
    n - 50 < 100 * roundHundredth n ∧ 100 * roundHundredth n ≤ n + 50 := by
  rw [roundHundredth_of_nonneg hn]
  omega

/-- At and below zero a tie goes down: the rounding is odd. -/
theorem roundHundredth_bounds_of_nonpos {n : Int} (hn : n ≤ 0) :
    n - 50 ≤ 100 * roundHundredth n ∧ 100 * roundHundredth n < n + 50 := by
  have hneg := roundHundredth_bounds_of_nonneg (n := -n) (by omega)
  rw [roundHundredth_neg] at hneg
  omega

/-- Settles O52: the integer is the rounded product. -/
theorem scaleRoundsHalvesAway : Obligations.ScaleRoundsHalvesAway := fun p max =>
  ⟨roundHundredth (p * max), rfl, roundHundredth_bounds_of_nonneg, roundHundredth_bounds_of_nonpos⟩

/-! ### Scaling -/

section Scale

variable {max : Nat} {p p1 p2 : Int}

theorem roundHundredth_mul_mono (max : Nat) (h : p1 ≤ p2) : roundHundredth (p1 * max) ≤ roundHundredth (p2 * max) :=
  roundHundredth_mono (mul_le_mul_of_nonneg_right h (Int.natCast_nonneg max))

/-- Over 0..100 the rounded product lies between its values at the two ends. -/
theorem roundHundredth_mul_mem (max : Nat) (h0 : 0 ≤ p) (h100 : p ≤ 100) :
    0 ≤ roundHundredth (p * max) ∧ roundHundredth (p * max) ≤ max := by
  have hlow := roundHundredth_mul_mono max h0
  have hhigh := roundHundredth_mul_mono max h100
  rw [zero_mul] at hlow
  rw [roundHundredth_hundred_mul] at hhigh
  exact ⟨hlow, hhigh⟩

/-- Over 0..100 the scaled word is the rounded product itself. -/
theorem scale_toNat (hmax : max < 2 ^ 31) (h0 : 0 ≤ p) (h100 : p ≤ 100) :
    ((scale p max).toNat : Int) = roundHundredth (p * max) := by
  obtain ⟨hlow, hhigh⟩ := roundHundredth_mul_mem max h0 h100
  rw [scale, BitVec.toNat_ofInt]
  omega

/-- A rounded product in the `i32` range does not wrap. -/
theorem scale_toInt (hlow : -(2 ^ 31) ≤ roundHundredth (p * max)) (hhigh : roundHundredth (p * max) < 2 ^ 31) :
    (scale p max).toInt = roundHundredth (p * max) :=
  BitVec.toInt_ofInt_eq_self (by decide) hlow hhigh

theorem scale_toNat_mono (hmax : max < 2 ^ 31) (h0 : 0 ≤ p1) (h12 : p1 ≤ p2) (h100 : p2 ≤ 100) :
    (scale p1 max).toNat ≤ (scale p2 max).toNat := by
  have hmono := roundHundredth_mul_mono max h12
  rwa [← scale_toNat hmax h0 (h12.trans h100), ← scale_toNat hmax (h0.trans h12) h100, Nat.cast_le] at hmono

theorem scale_toInt_mono (h12 : p1 ≤ p2) (hlow : -(2 ^ 31) ≤ roundHundredth (p1 * max))
    (hhigh : roundHundredth (p2 * max) < 2 ^ 31) : (scale p1 max).toInt ≤ (scale p2 max).toInt := by
  have hmono := roundHundredth_mul_mono max h12
  rwa [scale_toInt hlow (hmono.trans_lt hhigh), scale_toInt (hlow.trans hmono) hhigh]

end Scale

theorem policyInput_clamp (p : Int) : policyInput .clamp p = max 0 (min p 100) := policyInput_eq .clamp p

/-- Settles O53: the scaled word is the rounded product, which is monotone, wherever that does not wrap; and `CLAMP` brings
every input, in order, into 0..100, where it does not. -/
theorem scaleIsMonotone : Obligations.ScaleIsMonotone := by
  intro max hmax
  refine ⟨fun p1 p2 => scale_toNat_mono hmax, ?zero, ?hundred, fun p h0 h100 => ?bound,
    fun p => ⟨rfl, policyInput_clamp p, fun _ _ => rfl⟩, fun p1 p2 h12 => ?clamp, fun p1 p2 => scale_toInt_mono⟩
  case zero => rw [scale, zero_mul]; rfl
  case hundred =>
    have hscaled := scale_toNat hmax (p := 100) (by omega) le_rfl
    rwa [roundHundredth_hundred_mul, Nat.cast_inj] at hscaled
  case bound =>
    have hscaled := scale_toNat hmax h0 h100
    have hle := (roundHundredth_mul_mem max h0 h100).2
    omega
  case clamp =>
    rw [policyInput_clamp, policyInput_clamp]
    exact scale_toNat_mono hmax (by omega) (by omega) (by omega)

/-! ### The quarter -/

theorem quarter_toInt (s : Word) : (quarter s).toInt = s.toInt / 4 := by
  rw [quarter, BitVec.toInt_sshiftRight, Int.shiftRight_eq_div_pow]
  rfl

/-- Settles O54: the arithmetic shift is the floor of the quarter, and the rest is division with remainder. -/
theorem quarterLaw : Obligations.QuarterLaw := by
  intro s
  rw [quarter_toInt]
  omega

end Sys2Proof.Machine
end

section
/-! SUPPORT. The scaling commands: an input out of range (O32), and what SET_VELOCITY and SET_ACCELERATION send and leave
(O26, O27). -/

namespace Sys2Proof.Machine

/-! ### An input out of range -/

section Range

variable {i : Instr} {s : State} {p : Word}

theorem rangeFailure_of_negative (hi : scalingInput i = some p) (hpolicy : s.params.policy = .fail) (hp : p.toInt < 0) :
    rangeFailure i s = some (.rangeError, 1) := by
  simp [rangeFailure, hi, hpolicy, hp]

theorem rangeFailure_of_above (hi : scalingInput i = some p) (hpolicy : s.params.policy = .fail) (hp : 100 < p.toInt) :
    rangeFailure i s = some (.rangeError, 2) := by
  simp [rangeFailure, hi, hpolicy, hp, show ¬ p.toInt < 0 by omega]

/-- The range check comes before the permission check, which is not looked at (60_exceptions R213). -/
theorem exec_of_rangeFailure {c : StatusCode} {d : BitVec 4} (hchannel : ChannelReady i s)
    (hrange : rangeFailure i s = some (c, d)) : exec i s = .next (failedState c d s) := by
  simp [exec_eq_guarded, guarded, precheck, channelFailure_of_ready hchannel, hrange, raise_eq_failedState]

end Range

/-- Settles O32: the channel check passes, so the range check decides. -/
theorem outOfRangeInputFails : Obligations.OutOfRangeInputFails := fun _ _ _ _ hi hchannel hpolicy =>
  ⟨fun hp => exec_of_rangeFailure hchannel (rangeFailure_of_negative hi hpolicy hp),
    fun hp => exec_of_rangeFailure hchannel (rangeFailure_of_above hi hpolicy hp)⟩

/-! ### Two writes -/

section TwoWrites

variable (h : Nat) (a a' : Addr) (v v' : Word) (s : State)

theorem writeReg_writeReg_history : ∃ rx1 rx2, (writeReg h a' v' (writeReg h a v s)).history =
    s.history ++ [⟨h, writeFrame a v, rx1⟩, ⟨h, writeFrame a' v', rx2⟩] := by
  simp

/-- What two writes leave in their registers: the later one where the two addresses are one. -/
theorem writeReg_writeReg_registers :
    let held := deviceReg (writeReg h a' v' (writeReg h a v s)) (chanOf s h).cs
    (WriteSettles s a' → held a' = some v') ∧ (WriteSettles s a → a ≠ a' → held a = some v) := by
  refine ⟨(accessed_writeReg h a v s).deviceReg_writeReg v', fun hw hne => ?_⟩
  rw [deviceReg_writeReg_ne _ _ _ _ _ _ (.inr hne)]
  exact deviceReg_writeReg_same s h a v hw

end TwoWrites

/-! ### The commands -/

/-- Settles O26: the body is the two writes, the stored speed and the completion. -/
theorem setVelocityWritesSpeedAndQuarter : Obligations.SetVelocityWritesSpeedAndQuarter := by
  intro s h input hready hunfaulted p x v
  have hv : scaledVelocity p input = v := by rw [scaledVelocity, policyInput_eq]
  obtain ⟨t, ht⟩ := completedFrom_of_body rfl rfl hready hunfaulted
  obtain ⟨rx1, rx2, hhistory⟩ := writeReg_writeReg_history h p.addr.vmax p.addr.v1 v (quarter v) s
  have hregisters := writeReg_writeReg_registers h p.addr.vmax p.addr.v1 v (quarter v) s
  rw [← hv] at hhistory hregisters ⊢
  exact ⟨t, rx1, rx2, ht.exec, ht.finished, ht.history.trans hhistory, ht.result, ht.rdata.trans (by simp),
    ht.tgt.trans (by simp), ht.chans, ht.register ▸ hregisters⟩

theorem twice_eq (acc : Word) : twice acc = BitVec.ofNat 32 (2 * acc.toNat) := by
  rw [twice]
  bv_omega

/-- Settles O27: the body is the two writes and the completion. -/
theorem setAccelerationWritesValueAndDouble : Obligations.SetAccelerationWritesValueAndDouble := by
  intro s h input hready hunfaulted p x acc
  have hacc : scaledAcceleration p input = acc := by rw [scaledAcceleration, policyInput_eq]
  obtain ⟨t, ht⟩ := completedFrom_of_body rfl rfl hready hunfaulted
  obtain ⟨rx1, rx2, hhistory⟩ := writeReg_writeReg_history h p.addr.amax p.addr.a1 acc (twice acc) s
  have hregisters := writeReg_writeReg_registers h p.addr.amax p.addr.a1 acc (twice acc) s
  rw [← twice_eq]
  rw [← hacc] at hhistory hregisters ⊢
  exact ⟨t, rx1, rx2, ht.exec, ht.finished, ht.history.trans hhistory, ht.result, ht.rdata.trans (by simp),
    ht.tgt.trans (by simp), ht.chans.trans (set_chanOf s h), ht.register ▸ hregisters⟩

end Sys2Proof.Machine
end

section
/-! SUPPORT. Channel allocation: a handle that is not allocated (O31), and the three outcomes of INIT (O17). -/

namespace Sys2Proof.Machine

/-- Settles O31: the channel check comes first, so no other check is looked at. -/
theorem unallocatedChannelFails : Obligations.UnallocatedChannelFails := fun _ _ _ _ hi hh =>
  exec_of_unallocated hi hh

/-! ### INIT -/

section Init

variable {s : State} {cs : Word}

/-- The table is looked at before the chip-select (44_channel R200). -/
theorem initBody_of_full (hfull : s.allocCount.toNat = s.params.maxChannels) :
    initBody cs s = failedState .initFailure 1 s := by
  rw [initBody_eq, if_pos hfull, raise_eq_failedState]

theorem initBody_of_invalidSelect (hfree : s.allocCount.toNat ≠ s.params.maxChannels) (hcs : s.params.numCS ≤ cs.toNat) :
    initBody cs s = failedState .initFailure 2 s := by
  rw [initBody_eq, if_neg hfree, if_pos hcs, raise_eq_failedState]

theorem initBody_of_valid (hfree : s.allocCount.toNat ≠ s.params.maxChannels) (hcs : cs.toNat < s.params.numCS) :
    initBody cs s = complete s.allocCount (allocate cs s) := by
  rw [initBody_eq, if_neg hfree, if_neg (Nat.not_le_of_lt hcs)]

end Init

/-- Settles O17: INIT is its body, which has the three outcomes; the third, written out, is the allocation completed. -/
theorem initAllocates : Obligations.InitAllocates := fun _ _ _ =>
  ⟨fun hfull => congrArg Host.Outcome.next (initBody_of_full hfull),
    fun hfree hcs => congrArg Host.Outcome.next (initBody_of_invalidSelect hfree hcs),
    fun hfree hcs => congrArg Host.Outcome.next (initBody_of_valid hfree hcs)⟩

end Sys2Proof.Machine
end

section
/-! SUPPORT. Exceptions: a failure changes nothing but `RESULT` and `STATUS` (O35), and the exchange of the reference device of
60_exceptions R230 (O59). -/

namespace Sys2Proof.Machine

/-- Settles O35: of the three ways to complete, only a failure leaves a code other than `OK`, and it is the failed state. -/
theorem failureIsPrecise : Obligations.FailureIsPrecise := by
  intro i s t hi hexec _ hcode
  rcases exec_command_cases s hi with ⟨c, d, hlegal, -, he⟩ | ⟨cs, -, he⟩ | ⟨h, x, u, -, -, he, -⟩
  · cases he.symm.trans hexec
    exact ⟨c, d, hlegal, rfl⟩
  · cases he.symm.trans hexec
    exact absurd rfl hcode
  · cases he.symm.trans hexec
    exact absurd rfl hcode

/-! ### The reference device -/

/-- A frame is a write request exactly if its byte 0 is 128 or above (30_encoding R72). -/
theorem frameIsWrite_eq_decide (f : Frame) : frameIsWrite f = decide (128 ≤ (frameByte f 0).toNat) := by
  rw [show frameIsWrite f = (frameByte f 0).msb by simp [frameIsWrite, frameByte, BitVec.msb_eq_getLsbD_last]]
  exact BitVec.msb_eq_decide _

/-- The address is the low seven bits of byte 0 (30_encoding R72). -/
theorem frameAddr_eq_ofNat_frameByte (f : Frame) : frameAddr f = BitVec.ofNat 7 (frameByte f 0).toNat := by
  apply BitVec.eq_of_toNat_eq
  simp only [frameAddr, frameByte, BitVec.extractLsb'_toNat, BitVec.toNat_ofNat]
  omega

section Reference

variable {s : State} (ho : s.oracle = .reference)

include ho

/-- The reference device answers a zero byte and its latch (60_exceptions R230). -/
theorem answerFrame_of_reference (cs : Word) : answerFrame s cs = (0x00#8 ++ (devicePend s cs).getD 0 : BitVec 40) := by
  unfold answerFrame answerStatus answerPayload
  rw [ho]
  cases devicePend s cs <;> rfl

/-- The reference device latches the payload of a write request (60_exceptions R230). -/
theorem devicePend_answer_writeFrame (a : Addr) (v : Word) :
    devicePend (answer (writeFrame a v) s) s.bus.cs = some v := by
  simp [answer, deviceAct, deviceWrite, ho]

end Reference

/-- Settles O59: byte 0 tells a write request from a read request, and each leaves register and latch as the device law says. -/
theorem referenceDeviceExchange : Obligations.ReferenceDeviceExchange := by
  intro s f _ ho cs a v held
  have ha : frameAddr f = a := frameAddr_eq_ofNat_frameByte f
  have hform := writeFrame_or_readFrame f
  rw [frameIsWrite_eq_decide, ha] at hform
  have hkept := devicesKept_answer f s
  refine ⟨answer f s, exec_decodeFrame f s, by rw [answer_history, answerFrame_of_reference ho], fun hwrite => ?_,
    fun hread => ?_, ha ▸ hkept.regs, hkept.pends, fun cs' a' v' => ?_⟩
  · rw [if_pos (decide_eq_true hwrite)] at hform
    rw [hform]
    exact ⟨(deviceReg_answer_writeFrame a v s).trans (congrArg some (writtenValue_of_settles s cs v (.inl ho))),
      devicePend_answer_writeFrame ho a v⟩
  · rw [if_neg (by simpa using hread)] at hform
    rw [hform]
    have hsample : sampledValue s cs a = held := sampledValue_of_reference cs a ho
    exact ⟨hsample ▸ devicePend_answer_readFrameWith a v s, hsample ▸ deviceReg_answer_readFrameWith a v s⟩
  · rcases turn_deviceChange_cases cs' a' v' s with ⟨hfree, -⟩ | ⟨-, hturn⟩
    · exact absurd (ho.symm.trans hfree) (by decide)
    · exact hturn

end Sys2Proof.Machine
end

section
/-! SUPPORT. The worked encodings of 30_encoding R83 (O4): each is a well-formed command that the encoder turns into the printed
words, so the decoder reads it back. -/

namespace Sys2Proof.Machine

/-- Settles O4: the printed words are computed by encoding only; that they decode is the round trip of well-formed commands. -/
theorem workedEncodings : Obligations.WorkedEncodings := by
  refine ⟨fun e he => ?_, rfl⟩
  have hprinted : e.1.wf = true ∧ encode e.1 = .descriptor e.2 := by
    revert e
    decide
  obtain ⟨hwf, hcode⟩ := hprinted
  exact ⟨hcode, decodeCommand_of_encode hwf hcode⟩

end Sys2Proof.Machine
end
